-- ==== Sys2Proof/Word.lean ====
section
/-! DEFINITION. The word types of the engine (R20, R26, R61, R64, R80). -/

namespace Sys2Proof

/-- A register, a bus data word or a command word: 32 bits (R26, R64, R80). -/
abbrev Word := BitVec 32

/-- An entry of IN: 16 bits (R22). -/
abbrev Half := BitVec 16

/-- A byte offset in the register window: 12 bits (R61). -/
abbrev Offset := BitVec 12

/-- One byte lane of the bus data (R64). -/
abbrev Byte := BitVec 8

/-- CUR_CMD and LASTCMD: the low five bits of an accepted command word (R25, R36). -/
abbrev CmdCode := BitVec 5

/-- The low sixteen bits of a word, what a write to IN keeps (R90). -/
abbrev Word.low16 (w : Word) : Half := w.extractLsb' 0 16

/-- The low five bits of a word, what issue latches (R25, R181). -/
abbrev Word.low5 (w : Word) : CmdCode := w.extractLsb' 0 5

end Sys2Proof
end

