-- ==== Sys2Proof/Config.lean ====
section
/-! DEFINITION. What the spec fixes for this engine as parameters (R8, R16, R38, R39), and the one free value.

R16 asks that the transform's constants stand as configuration values: the kernels of Machine/Forward.lean and
Machine/Inverse.lean take their cosine table and precision as arguments, and the engine uses the values below.
PRESUMED: the spec marks every transform constant as general knowledge, not checked against AV1's text (log 9). -/

namespace Sys2Proof

/-- A cosine ROM: the seven entries the engine uses, named by their angle `a` (R38, R39). -/
structure CosTable where
  c8  : Int
  c16 : Int
  c24 : Int
  c32 : Int
  c40 : Int
  c48 : Int
  c56 : Int
deriving DecidableEq, Repr

namespace Config

/-- `COS12`, the inverse transform's table: `round (4096 * cos (a*π/128))` (R38). -/
def cos12 : CosTable :=
  { c8 := 4017, c16 := 3784, c24 := 3406, c32 := 2896, c40 := 2276, c48 := 1567, c56 := 799 }

/-- `COS13`, the forward transform's table: `round (8192 * cos (a*π/128))` (R39). -/
def cos13 : CosTable :=
  { c8 := 8035, c16 := 7568, c24 := 6811, c32 := 5793, c40 := 4551, c48 := 3135, c56 := 1598 }

/-- `INV_COS_BIT` (R8). -/
def invCosBit : Nat := 12

/-- `FWD_COS_BIT` (R8). -/
def fwdCosBit : Nat := 13

/-- The forward transform's input shift, at both sizes: the rule's `* 4` (R110). -/
def fwdInShift : Nat := 2

/-- The forward transform's final shift, at both sizes (R110). -/
def fwdOutShift : Nat := 0

/-- The forward transform's inter-pass shift `s1` at size 4 (R110). -/
def fwdMidShift4 : Nat := 0

/-- The forward transform's inter-pass shift `s1` at size 8 (R110). -/
def fwdMidShift8 : Nat := 1

/-- `rowShift` at size 4 (R140). -/
def invRowShift4 : Nat := 0

/-- `rowShift` at size 8 (R140). -/
def invRowShift8 : Nat := 1

/-- `colShift` (R140). -/
def invColShift : Nat := 4

/-- `r`, the width of the inverse's conformance range and of its clamps (R8, R140, R150). -/
def inverseRange : Nat := 16

/-- The bound of the valid residual range, [−255, 255] (R8, R113). -/
def residualMax : Int := 255

/-- The constant the ID register reads (R27). -/
def idValue : Word := 0x44435401#32

/-- The size of the register window in bytes (R61). -/
def windowBytes : Nat := 4096

/-- The `rdata` of a read that errs: any value, and the host must not use it (R202, 93_implementation_defined.md U9).
A free value (log 6): it has no body, so no proof can rest on what it is. The argument is `State.freeCount`. -/
opaque busErrorData : Nat → Word

end Config

end Sys2Proof
end

