-- ==== Sys2Proof/Syntax.lean ====
section
/-! DEFINITION. The host's requests as the bus carries them, and the instructions they stand for: one constructor of
`Instr` per row of the opcode table. -/

namespace Sys2Proof

/-- OP of a command word (R81). -/
inductive Op where
  | fwd
  | inv
deriving DecidableEq, Repr

/-- SIZE of a command word (R82): 4×4 or 8×8. -/
inductive Size where
  | n4
  | n8
deriving DecidableEq, Repr

/-- PLANE of a command word (R83). -/
inductive Plane where
  | y
  | u
  | v
deriving DecidableEq, Repr

/-- `kind` of a bus transaction (R89). -/
inductive Access where
  | read
  | write
deriving DecidableEq, Repr

/-- One bus transaction as the host issues it (R89): nothing about it is checked yet. `wdata` has a meaning for writes
only. -/
structure Transaction where
  kind  : Access
  off   : Offset
  size  : Nat
  wdata : Word
deriving DecidableEq, Repr

/-- What the host presents to the engine: a bus transaction (format BUS, R89), or a command word written to CMD
(format CMD, R80: the mnemonics of R84 and the `.cmd` of R91, each of them `wr CMD, w` by R92). -/
inductive Request where
  | bus (t : Transaction)
  | command (w : Word)
deriving DecidableEq, Repr

/-- The instructions: the six legal command words (R84) and the fourteen register accesses (R173 to R186). `k` is the
buffer entry `off[7:2]`, and `w` the write data. -/
inductive Instr where
  | fwd8Y
  | inv8Y
  | fwd4U
  | inv4U
  | fwd4V
  | inv4V
  | rdId
  | rdCmd
  | rdStatus
  | rdCtrl
  | rdLastcmd
  | rdIn (k : Fin 64)
  | rdOut (k : Fin 64)
  | wrCmd (w : Word)
  | wrStatus (w : Word)
  | wrCtrl (w : Word)
  | wrIn (k : Fin 64) (w : Word)
  | wrId (w : Word)
  | wrLastcmd (w : Word)
  | wrOut (k : Fin 64) (w : Word)
deriving DecidableEq, Repr

end Sys2Proof
end

