-- ==== Sys2Proof/WellFormed.lean ====
section
/-! DEFINITION. When a request is one the engine has an instruction for: the bus checks 1 to 3 of R170 over the address
map of R63, and the legal command words of R84. The checks are written as the spec's tables, apart from the decoder, so
that the two can be held against each other.

An `Instr` needs no check of its own: a buffer index is a `Fin 64` (R22, R23), and a data word is any 32 bits. -/

namespace Sys2Proof

/-- One row of the address map (R63): the offsets `first` to `last`, and whether a write may reach them. -/
structure Region where
  first    : Nat
  last     : Nat
  writable : Bool
deriving DecidableEq, Repr

/-- The mapped rows of the address map (R63). Every other offset is reserved. -/
def addressMap : List Region :=
  [ { first := 0x000, last := 0x003, writable := false }    -- ID
  , { first := 0x004, last := 0x007, writable := true }     -- CMD
  , { first := 0x008, last := 0x00B, writable := true }     -- STATUS
  , { first := 0x00C, last := 0x00F, writable := true }     -- CTRL
  , { first := 0x010, last := 0x013, writable := false }    -- LASTCMD
  , { first := 0x100, last := 0x1FF, writable := true }     -- IN
  , { first := 0x200, last := 0x2FF, writable := false } ]  -- OUT

/-- Whether a region holds an offset. -/
def Region.holds (r : Region) (off : Offset) : Bool :=
  decide (r.first ≤ off.toNat) && decide (off.toNat ≤ r.last)

/-- R65: the only transaction size is four bytes. -/
def Transaction.sizeOk (t : Transaction) : Bool := t.size == 4

/-- R66: `off[1:0] = 0b00`. -/
def Transaction.aligned (t : Transaction) : Bool := t.off.toNat % 4 == 0

/-- R63: the offset is not reserved. -/
def Transaction.mapped (t : Transaction) : Bool := addressMap.any fun r => r.holds t.off

/-- R67: the offset may be written. -/
def Transaction.writable (t : Transaction) : Bool :=
  addressMap.any fun r => r.holds t.off && r.writable

/-- The legal command words, and no others (R84). -/
def legalCommandWords : List Word :=
  [0x00000004#32, 0x00000005#32, 0x00000008#32, 0x00000009#32, 0x00000010#32, 0x00000011#32]

/-- A request the engine has an instruction for. The writability check of R170 is not one of these: a write to ID,
LASTCMD or OUT is an instruction of the table, and raising BusError is its meaning (R180). -/
def Request.wellFormed : Request → Bool
  | .bus t => t.sizeOk && t.aligned && t.mapped
  | .command w => legalCommandWords.contains w

/-- All four checks of R170, those a transaction passes that gets the response OK. -/
def Transaction.accepted (t : Transaction) : Bool :=
  t.sizeOk && t.aligned && t.mapped && (t.kind == .read || t.writable)

end Sys2Proof
end

