-- ==== Sys2Proof/Decode.lean ====
section
/-! DEFINITION. The decoder, total on every request and rejecting by name; after it the encoder, and the opcode table's
words as requests. -/

namespace Sys2Proof

/-! ### The command word (R80 to R88) -/

/-- Bits 1:0 of a command word, OP (R80). -/
def opBits (w : Word) : BitVec 2 := w.extractLsb' 0 2

/-- Bit 2 of a command word, SIZE (R80). -/
def sizeBit (w : Word) : Bool := w.getLsbD 2

/-- Bits 4:3 of a command word, PLANE (R80). -/
def planeBits (w : Word) : BitVec 2 := w.extractLsb' 3 2

/-- Bits 31:5 of a command word, RSVD (R80). -/
def rsvdBits (w : Word) : BitVec 27 := w.extractLsb' 5 27

/-- The three outcomes of R87's decoder. -/
inductive CommandClass where
  | illegal
  | mismatch
  | legal (op : Op) (size : Size) (plane : Plane)
deriving DecidableEq, Repr

/-- "Transform size must match block plane type": Y goes with 8×8, U and V with 4×4 (R86). -/
def sizeFitsPlane : Size → Plane → Bool
  | .n8, .y => true
  | .n4, .u => true
  | .n4, .v => true
  | .n8, .u => false
  | .n8, .v => false
  | .n4, .y => false

/-- OP of a word that is not illegal (R81). -/
def opField (w : Word) : Op := if opBits w = 0#2 then .fwd else .inv

/-- SIZE of a word (R82). -/
def sizeField (w : Word) : Size := if sizeBit w then .n8 else .n4

/-- PLANE of a word that is not illegal (R83). -/
def planeField (w : Word) : Plane :=
  if planeBits w = 0#2 then .y else if planeBits w = 1#2 then .u else .v

/-- `decode(w)` of R87, its checks in the rule's order. -/
def decodeCommand (w : Word) : CommandClass :=
  if rsvdBits w ≠ 0#27 then .illegal
  else if opBits w = 2#2 ∨ opBits w = 3#2 then .illegal
  else if planeBits w = 3#2 then .illegal
  else if sizeFitsPlane (sizeField w) (planeField w) then .legal (opField w) (sizeField w) (planeField w)
  else .mismatch

/-! ### Requests -/

/-- Why a request is no instruction. The first three raise BusError (R65, R66, R63); the last two are rejected commands
(R85, R86). -/
inductive DecodeError where
  | badSize
  | misaligned
  | reservedOffset
  | illegalCommand
  | sizeMismatch
deriving DecidableEq, Repr

/-- The instruction of a legal command (R84). The pairs that R86 calls mismatching stand for none. -/
def commandInstr : Op → Size → Plane → Option Instr
  | .fwd, .n8, .y => some .fwd8Y
  | .inv, .n8, .y => some .inv8Y
  | .fwd, .n4, .u => some .fwd4U
  | .inv, .n4, .u => some .inv4U
  | .fwd, .n4, .v => some .fwd4V
  | .inv, .n4, .v => some .inv4V
  | .fwd, .n8, .u => none
  | .fwd, .n8, .v => none
  | .fwd, .n4, .y => none
  | .inv, .n8, .u => none
  | .inv, .n8, .v => none
  | .inv, .n4, .y => none

/-- A command word as an instruction, or the name of its rejection (R84 to R87). -/
def decodeCommandWord (w : Word) : Except DecodeError Instr :=
  match decodeCommand w with
  | .illegal => .error .illegalCommand
  | .mismatch => .error .sizeMismatch
  | .legal op size plane =>
    match commandInstr op size plane with
    | some i => .ok i
    | none => .error .sizeMismatch

/-- The buffer entry `k = off[7:2]` (R89). -/
def entryOf (off : Offset) : Fin 64 := ⟨(off.extractLsb' 2 6).toNat, (off.extractLsb' 2 6).isLt⟩

/-- The page `off[11:8]`: 1 selects IN and 2 selects OUT (R89). -/
def pageOf (off : Offset) : BitVec 4 := off.extractLsb' 8 4

/-- The instruction of a read at an aligned offset (R171). -/
def decodeRead (off : Offset) : Except DecodeError Instr :=
  if off = 0x000#12 then .ok .rdId
  else if off = 0x004#12 then .ok .rdCmd
  else if off = 0x008#12 then .ok .rdStatus
  else if off = 0x00C#12 then .ok .rdCtrl
  else if off = 0x010#12 then .ok .rdLastcmd
  else if pageOf off = 1#4 then .ok (.rdIn (entryOf off))
  else if pageOf off = 2#4 then .ok (.rdOut (entryOf off))
  else .error .reservedOffset

/-- The instruction of a write at an aligned offset (R172; the read-only offsets are rows of the table, R180). -/
def decodeWrite (off : Offset) (w : Word) : Except DecodeError Instr :=
  if off = 0x000#12 then .ok (.wrId w)
  else if off = 0x004#12 then .ok (.wrCmd w)
  else if off = 0x008#12 then .ok (.wrStatus w)
  else if off = 0x00C#12 then .ok (.wrCtrl w)
  else if off = 0x010#12 then .ok (.wrLastcmd w)
  else if pageOf off = 1#4 then .ok (.wrIn (entryOf off) w)
  else if pageOf off = 2#4 then .ok (.wrOut (entryOf off) w)
  else .error .reservedOffset

/-- A bus transaction as an instruction: size, alignment and mapping, in R170's order. -/
def decodeTransaction (t : Transaction) : Except DecodeError Instr :=
  if t.size ≠ 4 then .error .badSize
  else if t.off.extractLsb' 0 2 ≠ 0#2 then .error .misaligned
  else match t.kind with
    | .read => decodeRead t.off
    | .write => decodeWrite t.off t.wdata

/-- The decoder, total on every request. -/
def decode : Request → Except DecodeError Instr
  | .bus t => decodeTransaction t
  | .command w => decodeCommandWord w

/-! ### The encoder -/

/-- OP as its two bits (R81). -/
def Op.bits : Op → BitVec 2
  | .fwd => 0b00#2
  | .inv => 0b01#2

/-- SIZE as its bit (R82). -/
def Size.bit : Size → BitVec 1
  | .n4 => 0b0#1
  | .n8 => 0b1#1

/-- PLANE as its two bits (R83). -/
def Plane.bits : Plane → BitVec 2
  | .y => 0b00#2
  | .u => 0b01#2
  | .v => 0b10#2

/-- A command word from its fields (R80): RSVD in the high bits, then PLANE, SIZE and OP. -/
def encodeCommand (op : Op) (size : Size) (plane : Plane) : Word :=
  0#27 ++ plane.bits ++ size.bit ++ op.bits

/-- `off(IN[k]) = 0x100 + 4*k` (R63, R91). -/
def inOffset (k : Fin 64) : Offset := BitVec.ofNat 12 (0x100 + 4 * k.val)

/-- `off(OUT[k]) = 0x200 + 4*k` (R63, R91). -/
def outOffset (k : Fin 64) : Offset := BitVec.ofNat 12 (0x200 + 4 * k.val)

/-- `rd <src>` (R91): a four-byte read. Its `wdata` means nothing and is 0. -/
def readAt (off : Offset) : Request := .bus { kind := .read, off := off, size := 4, wdata := 0#32 }

/-- `wr <dst>, <value>` (R91): a four-byte write. -/
def writeAt (off : Offset) (w : Word) : Request :=
  .bus { kind := .write, off := off, size := 4, wdata := w }

/-- The request that stands for an instruction, from the encoding tables of R63, R80 to R84 and R91. -/
def encode : Instr → Request
  | .fwd8Y => .command (encodeCommand .fwd .n8 .y)
  | .inv8Y => .command (encodeCommand .inv .n8 .y)
  | .fwd4U => .command (encodeCommand .fwd .n4 .u)
  | .inv4U => .command (encodeCommand .inv .n4 .u)
  | .fwd4V => .command (encodeCommand .fwd .n4 .v)
  | .inv4V => .command (encodeCommand .inv .n4 .v)
  | .rdId => readAt 0x000#12
  | .rdCmd => readAt 0x004#12
  | .rdStatus => readAt 0x008#12
  | .rdCtrl => readAt 0x00C#12
  | .rdLastcmd => readAt 0x010#12
  | .rdIn k => readAt (inOffset k)
  | .rdOut k => readAt (outOffset k)
  | .wrCmd w => writeAt 0x004#12 w
  | .wrStatus w => writeAt 0x008#12 w
  | .wrCtrl w => writeAt 0x00C#12 w
  | .wrIn k w => writeAt (inOffset k) w
  | .wrId w => writeAt 0x000#12 w
  | .wrLastcmd w => writeAt 0x010#12 w
  | .wrOut k w => writeAt (outOffset k) w

/-! ### Bus addresses -/

/-- The transaction at a byte address of the host's bus, when the address is in the window at `base` (R61, R62:
`off = addr − BASE`; `BASE` is an argument, log 11). Outside the window the engine sees no transaction. -/
def Transaction.atAddress (base addr : Nat) (kind : Access) (size : Nat) (w : Word) : Option Transaction :=
  if base ≤ addr ∧ addr < base + Config.windowBytes then
    some { kind := kind, off := BitVec.ofNat 12 (addr - base), size := size, wdata := w }
  else none

/-! ### The opcode table's words -/

/-- The key `{kind, off[11:0]}` of a BUS row, bit 12 being `kind` (opcode_table.json), with its write data, as a
transaction of size 4. -/
def busRequestOfKey (key : BitVec 13) (w : Word) : Request :=
  .bus { kind := if key.getLsbD 12 then .write else .read, off := key.extractLsb' 0 12, size := 4, wdata := w }

/-- The request of a table word (log 12): up to 16 bits it is a BUS key, up to 32 bits a command word, and above that a
BUS key in the low 16 bits with the write data from bit 16 on. -/
def requestOfTableWord (nbits w : Nat) : Request :=
  if nbits ≤ 16 then busRequestOfKey (BitVec.ofNat 13 w) 0#32
  else if nbits ≤ 32 then .command (BitVec.ofNat 32 w)
  else busRequestOfKey (BitVec.ofNat 13 w) (BitVec.ofNat 32 (w / 2 ^ 16))

/-- The instruction the decoder reads from a table word. -/
def decodeTableWord (nbits w : Nat) : Option Instr :=
  match decode (requestOfTableWord nbits w) with
  | .ok i => some i
  | .error _ => none

end Sys2Proof
end

