-- ==== Sys2Proof/Machine/State.lean ====
section
/-! DEFINITION. The engine's architectural state (R20), the machine around it, and the reset state (R41). -/

namespace Sys2Proof.Machine

/-- ENG_STATE, the two-state machine that is the engine's control (R20, R21). -/
inductive EngState where
  | idle
  | busy
deriving DecidableEq, Repr

/-- The engine's complete architectural state, the rows of R20. STATUS.BUSY is `engState` (R30). ID and the cosine ROMs
are constants and stand in Config (log 14). -/
structure Engine where
  engState : EngState
  curCmd   : CmdCode
  inBuf    : Vector Half 64
  outBuf   : Vector Word 64
  done     : Bool
  err      : Bool
  errcode  : BitVec 4
  range    : Bool
  domain   : Bool
  irqEn    : Bool
  lastCmd  : CmdCode
deriving DecidableEq, Repr

/-- What a bus transaction answers (R89: `resp`, and `rdata` for reads). -/
inductive Response where
  /-- OK, with the word read. -/
  | readOk (rdata : Word)
  /-- OK, for a write, rejected commands and dropped writes included (R170). -/
  | writeOk
  /-- BusError on a read. `rdata` is any value (R202, U9). -/
  | readError (rdata : Word)
  /-- BusError on a write (R202). -/
  | writeError
deriving DecidableEq, Repr

/-- The steps that the three agents take (R14): the host's request, the engine's completion step, reset. -/
inductive Event where
  | request (r : Request)
  | completion
  | reset
deriving DecidableEq, Repr

/-- The machine: the engine, and the host's side of the bus as plain data.
`inputs` is the interleaving still to come, oldest first (R14, R70, R240; log 2).
`response` is the response of the latest transaction, none before the first (R89; log 5).
`freeCount` counts the free values taken so far (U9; log 6). -/
structure State where
  eng       : Engine
  inputs    : List Event
  response  : Option Response
  freeCount : Nat
deriving DecidableEq, Repr

/-- Why a step stops. -/
inductive Fault where
  /-- Raised by the completion step of a BUSY engine whose CUR_CMD is no legal command word. R37 says that it is always
  legal there, and `Engine.Inv` rules it out. Safe: the machine stops where the spec gives nothing (log 8). -/
  | curCmdNotLegal
deriving DecidableEq, Repr

/-- Why an instruction has no meaning. -/
inductive Refusal where
  /-- Raised by `exec` for an instruction that has no meaning yet. Safe: the machine stops. No arm uses it now. -/
  | notModelled (mnemonic : String)
deriving DecidableEq, Repr

/-- The engine after reset: the reset column of R20 (R41). -/
def Engine.reset : Engine :=
  { engState := .idle
    curCmd   := 0#5
    inBuf    := Vector.replicate 64 0#16
    outBuf   := Vector.replicate 64 0#32
    done     := false
    err      := false
    errcode  := 0#4
    range    := false
    domain   := false
    irqEn    := false
    lastCmd  := 0#5 }

/-- The machine right after reset: the engine of R41, and on the host's side nothing to come, no response and no free
value taken (DESIGN CHOICE: logs 2, 5, 6). -/
def State.reset : State :=
  { eng := Engine.reset, inputs := [], response := none, freeCount := 0 }

end Sys2Proof.Machine
end

