-- ==== Sys2Proof/Machine/Arith.lean ====
section
/-! DEFINITION. The arithmetic primitives of R9 and R11, on mathematical integers: nothing wraps. -/

namespace Sys2Proof.Machine

/-- `Round2(x, n)`: `floor((x + 2^(n-1)) / 2^n)`, so that ties go up; `x` itself for `n = 0` (R11). Division of integers
by a positive number is the floor. -/
def round2 (x : Int) (n : Nat) : Int :=
  match n with
  | 0 => x
  | m + 1 => (x + 2 ^ m) / 2 ^ (m + 1)

/-- `Clip3(lo, hi, x)` (R11). -/
def clip3 (lo hi x : Int) : Int :=
  if x < lo then lo else if x > hi then hi else x

/-- `HalfBtf(w0, a, w1, b, bit)`, the butterfly (R11). -/
def halfBtf (w0 a w1 b : Int) (bit : Nat) : Int := round2 (w0 * a + w1 * b) bit

/-- `Representable(v, r)`: `−2^(r−1) ≤ v ≤ 2^(r−1) − 1` (R9). -/
def representable (v : Int) (r : Nat) : Bool :=
  decide (-(2 ^ (r - 1)) ≤ v) && decide (v ≤ 2 ^ (r - 1) - 1)

/-- The 16-bit clamp of R140: `Clip3(−32768, 32767, x)`, the bounds being those of `r` bits. -/
def clampTo (r : Nat) (x : Int) : Int := clip3 (-(2 ^ (r - 1))) (2 ^ (r - 1) - 1) x

end Sys2Proof.Machine
end

