-- ==== Sys2Proof/Machine/Operands.lean ====
section
/-! DEFINITION. How operands are read and written: the conversions of R90, the buffers as blocks (R13, R22, R23), and the
byte lanes of R64. -/

namespace Sys2Proof.Machine

/-- `N` of a size: 4 or 8 (R82). -/
def sizeN : Size → Nat
  | .n4 => 4
  | .n8 => 8

/-- What a write to IN stores: `sext_16(wdata[15:0])`, the low sixteen bits, read as signed (R90, R186). -/
def inEntryOfWord (w : Word) : Half := w.low16

/-- What a read of IN returns: `sext_32(IN[k])` (R90, R178). -/
def wordOfInEntry (h : Half) : Word := h.signExtend 32

/-- What completion stores in OUT: `sext_32(Y[k])` (R37). -/
def outEntryOfInt (v : Int) : Word := BitVec.ofInt 32 v

/-- `zext_32` of a command code, what LASTCMD reads (R177). -/
def wordOfCmd (c : CmdCode) : Word := c.setWidth 32

/-- `zext_32` of a flag, what CTRL reads (R176). -/
def wordOfFlag (b : Bool) : Word := (BitVec.ofBool b).setWidth 32

/-- The signed integer in `IN[k]`, for `k < 64` (R22). -/
def Engine.inInt (e : Engine) (k : Nat) : Int :=
  if h : k < 64 then (e.inBuf[k]).toInt else 0

/-- The signed integer in `OUT[k]`, for `k < 64` (R23). -/
def Engine.outInt (e : Engine) (k : Nat) : Int :=
  if h : k < 64 then (e.outBuf[k]).toInt else 0

/-- OUT after a completion: the block in its first `count` entries and 0 in the rest (R23, R37). -/
def outOfBlock (count : Nat) (y : Nat → Int) : Vector Word 64 :=
  Vector.ofFn fun k => if k.val < count then outEntryOfInt (y k.val) else 0#32

/-- Byte lane `b` of a bus word: bits `[8b+7 : 8b]`, the byte at address `BASE + off + b` (R64). -/
def byteLane (w : Word) (b : Fin 4) : Byte := w.extractLsb' (8 * b.val) 8

end Sys2Proof.Machine
end

