-- ==== Sys2Proof/Machine/Flags.lean ====
section
/-! DEFINITION. The flags: STATUS as a word, `set_error`, write-1-to-clear, the two warnings and `irq`. -/

namespace Sys2Proof.Machine

/-- STATUS.BUSY, which equals ENG_STATE (R30). -/
def Engine.busy (e : Engine) : Bool := e.engState == .busy

/-- The error codes of R200. -/
inductive ErrorCode where
  | illegalCmd
  | transformSizeMismatch
  | busyWrite
deriving DecidableEq, Repr

/-- The code of an error (R200): 1, 2 or 3. -/
def ErrorCode.code : ErrorCode → BitVec 4
  | .illegalCmd => 1#4
  | .transformSizeMismatch => 2#4
  | .busyWrite => 3#4

/-- `set_error(code)` (R201): the first error since ERR was last 0 keeps its code (R32). -/
def Engine.setError (e : Engine) (c : ErrorCode) : Engine :=
  { e with errcode := if e.err then e.errcode else c.code, err := true }

/-- `StatusWord()` (R175): DOMAIN, RANGE, ERRCODE, a zero, ERR, DONE, BUSY from bit 9 down; bits 31:10 are 0. -/
def Engine.statusWord (e : Engine) : Word :=
  0#22 ++ BitVec.ofBool e.domain ++ BitVec.ofBool e.range ++ e.errcode ++ 0#1 ++ BitVec.ofBool e.err ++
    BitVec.ofBool e.done ++ BitVec.ofBool e.busy

/-- `StatusWrite(w)` (R183): bits 1, 2, 8 and 9 clear DONE, ERR with ERRCODE, RANGE and DOMAIN; every other bit is
ignored. -/
def Engine.statusWrite (e : Engine) (w : Word) : Engine :=
  { e with
    done    := if w.getLsbD 1 then false else e.done
    err     := if w.getLsbD 2 then false else e.err
    errcode := if w.getLsbD 2 then 0#4 else e.errcode
    range   := if w.getLsbD 8 then false else e.range
    domain  := if w.getLsbD 9 then false else e.domain }

/-- An input entry outside the residual range [−255, 255] (R113). -/
def outsideResidual (v : Int) : Bool :=
  decide (v < -Config.residualMax) || decide (v > Config.residualMax)

/-- Whether a forward operation that reads `count` entries sets DOMAIN (R34, R113). -/
def domainHit (count : Nat) (x : Nat → Int) : Bool :=
  (List.range count).any fun k => outsideResidual (x k)

/-- Whether a list of stored values fails the range check (R150). -/
def rangeHit (stored : List Int) : Bool :=
  stored.any fun v => !representable v Config.inverseRange

/-- `irq = CTRL.IRQ_EN and (STATUS.DONE or STATUS.ERR)` (R206): a function of the state, not state. -/
def Engine.irq (e : Engine) : Bool := e.irqEn && (e.done || e.err)

end Sys2Proof.Machine
end

