-- ==== Sys2Proof/Machine/Ops.lean ====
section
/-! DEFINITION. The operations that the meanings share: the bus responses, BusError, the register reads, the writes of
R181 to R186, issue, and what every completion does. The engine takes no traps (R209): its exceptions are BusError, which
ends a transaction, and `set_error` (Flags.lean), which records a rejection; there is nothing to return from. -/

namespace Sys2Proof.Machine

/-! ### Bus responses -/

/-- A read answers OK with its word, and changes no engine state (R69, R171). -/
def State.replyRead (s : State) (rdata : Word) : State :=
  { s with response := some (.readOk rdata) }

/-- A write answers OK and leaves the engine as `e` (R170, R172). -/
def State.replyWrite (s : State) (e : Engine) : State :=
  { s with eng := e, response := some .writeOk }

/-- `raise BusError(off)` (R202): the error response and no change of engine state. The data of a read that errs is a
free value (U9, log 6). -/
def State.busError (s : State) (kind : Access) : State :=
  match kind with
  | .read =>
    { s with response := some (.readError (Config.busErrorData s.freeCount)), freeCount := s.freeCount + 1 }
  | .write => { s with response := some .writeError }

/-! ### Writes -/

/-- Issue of a legal command word (R181): the command is latched, BUSY is set and DONE cleared. -/
def Engine.issue (e : Engine) (w : Word) : Engine :=
  { e with curCmd := w.low5, lastCmd := w.low5, engState := .busy, done := false }

/-- `CmdWrite(w)` (R181): BUSY first, then the decoder of R87. -/
def Engine.cmdWrite (e : Engine) (w : Word) : Engine :=
  if e.busy then e.setError .busyWrite
  else match decodeCommand w with
    | .illegal => e.setError .illegalCmd
    | .mismatch => e.setError .transformSizeMismatch
    | .legal _ _ _ => e.issue w

/-- `CTRL.IRQ_EN <- w[0]` (R184). -/
def Engine.ctrlWrite (e : Engine) (w : Word) : Engine := { e with irqEn := w.getLsbD 0 }

/-- `IN[k] <- h`. -/
def Engine.setIn (e : Engine) (k : Fin 64) (h : Half) : Engine := { e with inBuf := e.inBuf.set k.val h k.isLt }

/-- `InWrite(k, w)` (R186): dropped while BUSY. -/
def Engine.inWrite (e : Engine) (k : Fin 64) (w : Word) : Engine :=
  if e.busy then e.setError .busyWrite else e.setIn k (inEntryOfWord w)

/-! ### Completion -/

/-- What every completion does beside the transform (R37): all of OUT is written, BUSY falls, DONE is set. -/
def Engine.finish (e : Engine) (out : Vector Word 64) : Engine :=
  { e with outBuf := out, engState := .idle, done := true }

/-- A forward completion (R37, R111, R112): OUT gets the block, and DOMAIN is set when an entry read lies outside the
residual range. -/
def Engine.finishForward (e : Engine) (size : Size) (forward : (Nat → Int) → Nat → Int) : Engine :=
  { e.finish (outOfBlock (sizeN size * sizeN size) (forward e.inInt)) with
    domain := e.domain || domainHit (sizeN size * sizeN size) e.inInt }

/-- The result of an inverse transform: the block, and whether a range check failed (R140). -/
structure InverseResult where
  block : Nat → Int
  viol  : Bool

/-- An inverse completion (R37, R141, R142): OUT gets the block, and RANGE is set when a check failed. -/
def Engine.finishInverse (e : Engine) (size : Size) (inverse : (Nat → Int) → InverseResult) : Engine :=
  { e.finish (outOfBlock (sizeN size * sizeN size) (inverse e.inInt).block) with
    range := e.range || (inverse e.inInt).viol }

/-! ### Rejections and reset -/

/-- What a request that is no instruction does: a transaction raises BusError (R170, R202), and a command word is
written to CMD all the same, where it is rejected or dropped (R181, log 13). -/
def State.reject (s : State) (r : Request) : State :=
  match r with
  | .bus t => s.busError t.kind
  | .command w => s.replyWrite (s.eng.cmdWrite w)

/-- The reset event (R230): every piece of engine state takes its reset value, and an operation in flight is abandoned.
The host's side keeps what is still to come (log 15). -/
def State.resetEvent (s : State) : State :=
  { s with eng := Engine.reset, response := none }

end Sys2Proof.Machine
end

