-- ==== Sys2Proof/Machine/Forward.lean ====
section
/-! DEFINITION. The forward transforms (R102, R103, R110) and the commands FWD8 and FWD4 (R111, R112). The kernels take
their cosine table and precision as arguments (R16). -/

namespace Sys2Proof.Machine

/-- `FDCT4` (R102). -/
def fdct4 (c : CosTable) (bit : Nat) (x : Nat → Int) : List Int :=
  let a0 := x 0 + x 3
  let a1 := x 1 + x 2
  let a2 := x 1 - x 2
  let a3 := x 0 - x 3
  let b0 := halfBtf c.c32 a0 c.c32 a1 bit
  let b1 := halfBtf (-c.c32) a1 c.c32 a0 bit
  let b2 := halfBtf c.c48 a2 c.c16 a3 bit
  let b3 := halfBtf c.c48 a3 (-c.c16) a2 bit
  [b0, b2, b1, b3]

/-- `FDCT8` (R103). A name `p_q` is the rule's `sp[q]`. -/
def fdct8 (c : CosTable) (bit : Nat) (x : Nat → Int) : List Int :=
  -- stage 1
  let s1_0 := x 0 + x 7
  let s1_1 := x 1 + x 6
  let s1_2 := x 2 + x 5
  let s1_3 := x 3 + x 4
  let s1_4 := x 3 - x 4
  let s1_5 := x 2 - x 5
  let s1_6 := x 1 - x 6
  let s1_7 := x 0 - x 7
  -- stage 2
  let s2_0 := s1_0 + s1_3
  let s2_1 := s1_1 + s1_2
  let s2_2 := s1_1 - s1_2
  let s2_3 := s1_0 - s1_3
  let s2_4 := s1_4
  let s2_5 := halfBtf (-c.c32) s1_5 c.c32 s1_6 bit
  let s2_6 := halfBtf c.c32 s1_6 c.c32 s1_5 bit
  let s2_7 := s1_7
  -- stage 3
  let s3_0 := halfBtf c.c32 s2_0 c.c32 s2_1 bit
  let s3_1 := halfBtf (-c.c32) s2_1 c.c32 s2_0 bit
  let s3_2 := halfBtf c.c48 s2_2 c.c16 s2_3 bit
  let s3_3 := halfBtf c.c48 s2_3 (-c.c16) s2_2 bit
  let s3_4 := s2_4 + s2_5
  let s3_5 := s2_4 - s2_5
  let s3_6 := s2_7 - s2_6
  let s3_7 := s2_7 + s2_6
  -- stage 4
  let s4_4 := halfBtf c.c56 s3_4 c.c8 s3_7 bit
  let s4_5 := halfBtf c.c24 s3_5 c.c40 s3_6 bit
  let s4_6 := halfBtf c.c24 s3_6 (-c.c40) s3_5 bit
  let s4_7 := halfBtf c.c56 s3_7 (-c.c8) s3_4 bit
  -- stage 5: output order
  [s3_0, s4_4, s3_2, s4_6, s3_1, s4_5, s3_3, s4_7]

/-- `Forward2D_N` (R110): a column pass with the input shift `s0` and the inter-pass shift `s1`, then a row pass with the
final shift `s2`. `X` and the result are blocks, entry `i*n + j` being row `i` and column `j` (R13). -/
def forward2D (n : Nat) (fdct : (Nat → Int) → List Int) (s0 s1 s2 : Nat) (x : Nat → Int) : Nat → Int :=
  let b (i j : Nat) : Int := round2 ((fdct fun i' => x (i' * n + j) * 2 ^ s0).getD i 0) s1
  fun k => round2 ((fdct fun j => b (k / n) j).getD (k % n) 0) s2

/-- `Forward2D_4` with the engine's constants (R39, R110). -/
def forward4 : (Nat → Int) → Nat → Int :=
  forward2D 4 (fdct4 Config.cos13 Config.fwdCosBit) Config.fwdInShift Config.fwdMidShift4 Config.fwdOutShift

/-- `Forward2D_8` with the engine's constants (R39, R110). -/
def forward8 : (Nat → Int) → Nat → Int :=
  forward2D 8 (fdct8 Config.cos13 Config.fwdCosBit) Config.fwdInShift Config.fwdMidShift8 Config.fwdOutShift

/-- FWD8 at completion (R111). -/
def Engine.completeFwd8 (e : Engine) : Engine := e.finishForward .n8 forward8

/-- FWD4 at completion (R112); U and V compute the same function (R83). -/
def Engine.completeFwd4 (e : Engine) : Engine := e.finishForward .n4 forward4

/-- `fwd8 y`: `wr CMD, 0x04` (R84, R92). Issue is R181's; the transform runs at the completion step (R111, log 1). -/
def execFwd8Y (s : State) : Host.Outcome State Fault Refusal :=
  .next (s.replyWrite (s.eng.cmdWrite 0x00000004#32))

/-- `fwd4 u`: `wr CMD, 0x08` (R84, R92, R112). -/
def execFwd4U (s : State) : Host.Outcome State Fault Refusal :=
  .next (s.replyWrite (s.eng.cmdWrite 0x00000008#32))

/-- `fwd4 v`: `wr CMD, 0x10` (R84, R92, R112). -/
def execFwd4V (s : State) : Host.Outcome State Fault Refusal :=
  .next (s.replyWrite (s.eng.cmdWrite 0x00000010#32))

end Sys2Proof.Machine
end

