-- ==== Sys2Proof/Machine/Inverse.lean ====
section
/-! DEFINITION. The inverse transforms (R132, R133, R140), their range check (R150), and the commands INV8 and INV4
(R141, R142). The kernels take their cosine table and precision as arguments (R16). -/

namespace Sys2Proof.Machine

/-- A one-dimensional inverse: its output, and the values the rule marks as stored, which the range check of R150
tests and never alters. -/
structure Idct where
  out    : List Int
  stored : List Int
deriving DecidableEq, Repr

/-- `IDCT4` (R132). -/
def idct4 (c : CosTable) (bit : Nat) (x : Nat → Int) : Idct :=
  -- stage 1: input permutation
  let a0 := x 0
  let a1 := x 2
  let a2 := x 1
  let a3 := x 3
  -- stage 2: butterflies
  let b0 := halfBtf c.c32 a0 c.c32 a1 bit
  let b1 := halfBtf c.c32 a0 (-c.c32) a1 bit
  let b2 := halfBtf c.c48 a2 (-c.c16) a3 bit
  let b3 := halfBtf c.c16 a2 c.c48 a3 bit
  -- stage 3: additions
  let y := [b0 + b3, b1 + b2, b1 - b2, b0 - b3]
  { out := y, stored := [b0, b1, b2, b3] ++ y }

/-- `IDCT8` (R133). A name `sp_q` is the rule's `sp[q]`. -/
def idct8 (c : CosTable) (bit : Nat) (x : Nat → Int) : Idct :=
  -- stage 1: input permutation
  let s1_0 := x 0
  let s1_1 := x 4
  let s1_2 := x 2
  let s1_3 := x 6
  let s1_4 := x 1
  let s1_5 := x 5
  let s1_6 := x 3
  let s1_7 := x 7
  -- stage 2
  let s2_0 := s1_0
  let s2_1 := s1_1
  let s2_2 := s1_2
  let s2_3 := s1_3
  let s2_4 := halfBtf c.c56 s1_4 (-c.c8) s1_7 bit
  let s2_5 := halfBtf c.c24 s1_5 (-c.c40) s1_6 bit
  let s2_6 := halfBtf c.c40 s1_5 c.c24 s1_6 bit
  let s2_7 := halfBtf c.c8 s1_4 c.c56 s1_7 bit
  -- stage 3
  let s3_0 := halfBtf c.c32 s2_0 c.c32 s2_1 bit
  let s3_1 := halfBtf c.c32 s2_0 (-c.c32) s2_1 bit
  let s3_2 := halfBtf c.c48 s2_2 (-c.c16) s2_3 bit
  let s3_3 := halfBtf c.c16 s2_2 c.c48 s2_3 bit
  let s3_4 := s2_4 + s2_5
  let s3_5 := s2_4 - s2_5
  let s3_6 := s2_7 - s2_6
  let s3_7 := s2_6 + s2_7
  -- stage 4
  let s4_0 := s3_0 + s3_3
  let s4_1 := s3_1 + s3_2
  let s4_2 := s3_1 - s3_2
  let s4_3 := s3_0 - s3_3
  let s4_4 := s3_4
  let s4_5 := halfBtf (-c.c32) s3_5 c.c32 s3_6 bit
  let s4_6 := halfBtf c.c32 s3_5 c.c32 s3_6 bit
  let s4_7 := s3_7
  -- stage 5
  let y := [s4_0 + s4_7, s4_1 + s4_6, s4_2 + s4_5, s4_3 + s4_4,
            s4_3 - s4_4, s4_2 - s4_5, s4_1 - s4_6, s4_0 - s4_7]
  { out := y
    stored := [s2_4, s2_5, s2_6, s2_7] ++ [s3_0, s3_1, s3_2, s3_3, s3_4, s3_5, s3_6, s3_7] ++
      [s4_0, s4_1, s4_2, s4_3, s4_5, s4_6] ++ y }

/-- The row pass of R140 on row `i`: the input clamp, then the kernel. -/
def inverseRow (n : Nat) (idct : (Nat → Int) → Idct) (x : Nat → Int) (i : Nat) : Idct :=
  idct fun j => clampTo Config.inverseRange (x (i * n + j))

/-- `R[i][j]` of R140 after the clamp between the passes. -/
def inverseMid (n : Nat) (idct : (Nat → Int) → Idct) (rowShift : Nat) (x : Nat → Int) (i j : Nat) : Int :=
  clampTo Config.inverseRange (round2 ((inverseRow n idct x i).out.getD j 0) rowShift)

/-- The column pass of R140 on column `j`. -/
def inverseColumn (n : Nat) (idct : (Nat → Int) → Idct) (rowShift : Nat) (x : Nat → Int) (j : Nat) : Idct :=
  idct fun i => inverseMid n idct rowShift x i j

/-- `Inverse2D_N` (R140): a row pass, a clamp, a column pass; `viol` says whether any stored value of either pass failed
the check (R150). -/
def inverse2D (n : Nat) (idct : (Nat → Int) → Idct) (rowShift : Nat) (x : Nat → Int) : InverseResult :=
  { block := fun k =>
      round2 ((inverseColumn n idct rowShift x (k % n)).out.getD (k / n) 0) Config.invColShift
    viol := (List.range n).any (fun i => rangeHit (inverseRow n idct x i).stored) ||
      (List.range n).any (fun j => rangeHit (inverseColumn n idct rowShift x j).stored) }

/-- `Inverse2D_4` with the engine's constants (R38, R140). -/
def inverse4 : (Nat → Int) → InverseResult :=
  inverse2D 4 (idct4 Config.cos12 Config.invCosBit) Config.invRowShift4

/-- `Inverse2D_8` with the engine's constants (R38, R140). -/
def inverse8 : (Nat → Int) → InverseResult :=
  inverse2D 8 (idct8 Config.cos12 Config.invCosBit) Config.invRowShift8

/-- INV8 at completion (R141). -/
def Engine.completeInv8 (e : Engine) : Engine := e.finishInverse .n8 inverse8

/-- INV4 at completion (R142); U and V compute the same function (R83). -/
def Engine.completeInv4 (e : Engine) : Engine := e.finishInverse .n4 inverse4

/-- `inv8 y`: `wr CMD, 0x05` (R84, R92). Issue is R181's; the transform runs at the completion step (R141, log 1). -/
def execInv8Y (s : State) : Host.Outcome State Fault Refusal :=
  .next (s.replyWrite (s.eng.cmdWrite 0x00000005#32))

/-- `inv4 u`: `wr CMD, 0x09` (R84, R92, R142). -/
def execInv4U (s : State) : Host.Outcome State Fault Refusal :=
  .next (s.replyWrite (s.eng.cmdWrite 0x00000009#32))

/-- `inv4 v`: `wr CMD, 0x11` (R84, R92, R142). -/
def execInv4V (s : State) : Host.Outcome State Fault Refusal :=
  .next (s.replyWrite (s.eng.cmdWrite 0x00000011#32))

end Sys2Proof.Machine
end

