-- ==== Sys2Proof/Machine/Completion.lean ====
section
/-! DEFINITION. The engine agent's one step (R37). -/

namespace Sys2Proof.Machine

/-- The completion of the command in CUR_CMD (R37). The plane plays no part (R83). `none` when CUR_CMD is no legal
word, which does not occur while BUSY. -/
def Engine.complete (e : Engine) : Option Engine :=
  match decodeCommand (wordOfCmd e.curCmd) with
  | .legal .fwd .n8 _ => some e.completeFwd8
  | .legal .fwd .n4 _ => some e.completeFwd4
  | .legal .inv .n8 _ => some e.completeInv8
  | .legal .inv .n4 _ => some e.completeInv4
  | .illegal => none
  | .mismatch => none

/-- The completion step of a BUSY engine (R37). -/
def completionStep (s : State) : Host.Outcome State Fault Refusal :=
  match s.eng.complete with
  | some e => .next { s with eng := e }
  | none => .fault .curCmdNotLegal

/-- The engine agent's turn: its completion step when it is enabled, and nothing otherwise (R37, R218; log 3). -/
def engineTurn (s : State) : Host.Outcome State Fault Refusal :=
  if s.eng.busy then completionStep s else .next s

end Sys2Proof.Machine
end

