-- ==== Sys2Proof/Machine/BusRead.lean ====
section
/-! DEFINITION. The reads of R173 to R179: each answers a word and changes nothing in the engine. -/

namespace Sys2Proof.Machine

/-- RD ID (R173). -/
def execRdId (s : State) : Host.Outcome State Fault Refusal := .next (s.replyRead Config.idValue)

/-- RD CMD: always 0 (R174). -/
def execRdCmd (s : State) : Host.Outcome State Fault Refusal := .next (s.replyRead 0#32)

/-- RD STATUS (R175). -/
def execRdStatus (s : State) : Host.Outcome State Fault Refusal := .next (s.replyRead s.eng.statusWord)

/-- RD CTRL (R176). -/
def execRdCtrl (s : State) : Host.Outcome State Fault Refusal := .next (s.replyRead (wordOfFlag s.eng.irqEn))

/-- RD LASTCMD (R177). -/
def execRdLastcmd (s : State) : Host.Outcome State Fault Refusal := .next (s.replyRead (wordOfCmd s.eng.lastCmd))

/-- RD IN[k] (R178). -/
def execRdIn (k : Fin 64) (s : State) : Host.Outcome State Fault Refusal :=
  .next (s.replyRead (wordOfInEntry s.eng.inBuf[k]))

/-- RD OUT[k] (R179). -/
def execRdOut (k : Fin 64) (s : State) : Host.Outcome State Fault Refusal :=
  .next (s.replyRead s.eng.outBuf[k])

end Sys2Proof.Machine
end

