-- ==== Sys2Proof/Machine/BusWrite.lean ====
section
/-! DEFINITION. The writes of R180 to R186. -/

namespace Sys2Proof.Machine

/-- WR CMD (R181). -/
def execWrCmd (w : Word) (s : State) : Host.Outcome State Fault Refusal := .next (s.replyWrite (s.eng.cmdWrite w))

/-- WR STATUS (R183). -/
def execWrStatus (w : Word) (s : State) : Host.Outcome State Fault Refusal :=
  .next (s.replyWrite (s.eng.statusWrite w))

/-- WR CTRL (R184). -/
def execWrCtrl (w : Word) (s : State) : Host.Outcome State Fault Refusal := .next (s.replyWrite (s.eng.ctrlWrite w))

/-- WR IN[k] (R186). -/
def execWrIn (k : Fin 64) (w : Word) (s : State) : Host.Outcome State Fault Refusal :=
  .next (s.replyWrite (s.eng.inWrite k w))

/-- WR ID raises BusError (R27, R180); the data written plays no part. -/
def execWrId (_w : Word) (s : State) : Host.Outcome State Fault Refusal := .next (s.busError .write)

/-- WR LASTCMD raises BusError (R36, R180). -/
def execWrLastcmd (_w : Word) (s : State) : Host.Outcome State Fault Refusal := .next (s.busError .write)

/-- WR OUT[k] raises BusError (R180). -/
def execWrOut (_k : Fin 64) (_w : Word) (s : State) : Host.Outcome State Fault Refusal := .next (s.busError .write)

end Sys2Proof.Machine
end

