-- ==== Sys2Proof/Machine/Dispatch.lean ====
section
/-! DEFINITION. One arm per instruction. -/

namespace Sys2Proof.Machine

/-- The effect of one instruction. -/
def exec (i : Instr) (s : State) : Host.Outcome State Fault Refusal :=
  match i with
  | .fwd8Y => Sys2Proof.Machine.execFwd8Y s
  | .inv8Y => Sys2Proof.Machine.execInv8Y s
  | .fwd4U => Sys2Proof.Machine.execFwd4U s
  | .inv4U => Sys2Proof.Machine.execInv4U s
  | .fwd4V => Sys2Proof.Machine.execFwd4V s
  | .inv4V => Sys2Proof.Machine.execInv4V s
  | .rdId => Sys2Proof.Machine.execRdId s
  | .rdCmd => Sys2Proof.Machine.execRdCmd s
  | .rdStatus => Sys2Proof.Machine.execRdStatus s
  | .rdCtrl => Sys2Proof.Machine.execRdCtrl s
  | .rdLastcmd => Sys2Proof.Machine.execRdLastcmd s
  | .rdIn k => Sys2Proof.Machine.execRdIn k s
  | .rdOut k => Sys2Proof.Machine.execRdOut k s
  | .wrCmd w => Sys2Proof.Machine.execWrCmd w s
  | .wrStatus w => Sys2Proof.Machine.execWrStatus w s
  | .wrCtrl w => Sys2Proof.Machine.execWrCtrl w s
  | .wrIn k w => Sys2Proof.Machine.execWrIn k w s
  | .wrId w => Sys2Proof.Machine.execWrId w s
  | .wrLastcmd w => Sys2Proof.Machine.execWrLastcmd w s
  | .wrOut k w => Sys2Proof.Machine.execWrOut k w s

end Sys2Proof.Machine
end

