-- ==== Sys2Proof/Machine/Step.lean ====
section
/-! DEFINITION. One step of the machine: the next event of the interleaving. The engine fetches nothing (R21); its next
instruction is the host's next request. -/

namespace Sys2Proof.Machine

/-- The host's request runs: as its instruction, or as a rejection when it is none (R170, R181). -/
def runRequest (r : Request) (s : State) : Host.Outcome State Fault Refusal :=
  match decode r with
  | .ok i => exec i s
  | .error _ => .next (s.reject r)

/-- One step (R14): the oldest input happens. With no input left only the engine can move: a BUSY engine completes
(R240: completion may come after the last transaction), and an IDLE one does nothing (R218; logs 2, 3, 4). -/
def step (s : State) : Host.Outcome State Fault Refusal :=
  match s.inputs with
  | [] => engineTurn s
  | .request r :: rest => runRequest r { s with inputs := rest }
  | .completion :: rest => engineTurn { s with inputs := rest }
  | .reset :: rest => .next (State.resetEvent { s with inputs := rest })

/-- `s` with one request placed before everything still to come. -/
def State.withRequest (s : State) (r : Request) : State := { s with inputs := .request r :: s.inputs }

/-- `s` with the request of a table word as its next input (log 12), so that the next step runs it. -/
def State.withFetchWord (s : State) (nbits w : Nat) : State := s.withRequest (requestOfTableWord nbits w)

end Sys2Proof.Machine
end

