-- ==== Sys2Proof/Machine/BusDispatch.lean ====
section
/-! DEFINITION. The read and write dispatch of R171 and R172, written as the rules write them. The machine does not call
them: it decodes a transaction and runs its instruction. They are the clear form that the machine is held against. -/

namespace Sys2Proof.Machine

/-- `off[7:2]` (R171). -/
def bufferIndex (off : Offset) : Fin 64 := ⟨off.toNat / 4 % 64, Nat.mod_lt _ (by decide)⟩

/-- The word a read returns, by offset (R171); `none` is "otherwise". -/
def Engine.readReg (e : Engine) (off : Offset) : Option Word :=
  if off.toNat = 0x000 then some 0x44435401#32
  else if off.toNat = 0x004 then some 0x00000000#32
  else if off.toNat = 0x008 then some e.statusWord
  else if off.toNat = 0x00C then some (wordOfFlag e.irqEn)
  else if off.toNat = 0x010 then some (wordOfCmd e.lastCmd)
  else if 0x100 ≤ off.toNat ∧ off.toNat ≤ 0x1FC then some (wordOfInEntry e.inBuf[bufferIndex off])
  else if 0x200 ≤ off.toNat ∧ off.toNat ≤ 0x2FC then some e.outBuf[bufferIndex off]
  else none

/-- The engine a write leaves, by offset (R172); `none` is "otherwise". -/
def Engine.writeReg (e : Engine) (off : Offset) (w : Word) : Option Engine :=
  if off.toNat = 0x004 then some (e.cmdWrite w)
  else if off.toNat = 0x008 then some (e.statusWrite w)
  else if off.toNat = 0x00C then some (e.ctrlWrite w)
  else if 0x100 ≤ off.toNat ∧ off.toNat ≤ 0x1FC then some (e.inWrite (bufferIndex off) w)
  else none

/-- `BusRead(off, size)` (R171). -/
def State.busRead (s : State) (off : Offset) (size : Nat) : State :=
  if size ≠ 4 ∨ off.toNat % 4 ≠ 0 then s.busError .read
  else match s.eng.readReg off with
    | some v => s.replyRead v
    | none => s.busError .read

/-- `BusWrite(off, size, wdata)` (R172). -/
def State.busWrite (s : State) (off : Offset) (size : Nat) (w : Word) : State :=
  if size ≠ 4 ∨ off.toNat % 4 ≠ 0 then s.busError .write
  else match s.eng.writeReg off w with
    | some e => s.replyWrite e
    | none => s.busError .write

/-- One bus transaction (R170). -/
def State.busTransaction (s : State) (t : Transaction) : State :=
  match t.kind with
  | .read => s.busRead t.off t.size
  | .write => s.busWrite t.off t.size t.wdata

end Sys2Proof.Machine
end

