-- ==== Sys2Proof/Machine/HostLanguage.lean ====
section
/-! DEFINITION. The host's notation: the transactions of R91, the pseudo-instructions of R92 as the requests they expand
to, the disassembly of a command word (R91), and the requests of the per-block protocol (R234). The step of the machine
uses none of it. Source text is not parsed (log 17). -/

namespace Sys2Proof.Machine

/-- `<dst>` and `<src>` of R91. -/
inductive Target where
  | id
  | cmd
  | status
  | ctrl
  | lastcmd
  | inEntry (k : Fin 64)
  | outEntry (k : Fin 64)
  | raw (off : Offset)
deriving DecidableEq, Repr

/-- `off(<dst>)` (R26, R91). -/
def Target.off : Target → Offset
  | .id => 0x000#12
  | .cmd => 0x004#12
  | .status => 0x008#12
  | .ctrl => 0x00C#12
  | .lastcmd => 0x010#12
  | .inEntry k => inOffset k
  | .outEntry k => outOffset k
  | .raw off => off

/-- `<value>`: a negative decimal is a 32-bit two's-complement word (R91). -/
def wordOfValue (v : Int) : Word := BitVec.ofInt 32 v

/-- `wr <dst>, <value>` (R91). -/
def wrRequest (dst : Target) (value : Int) : Request := writeAt dst.off (wordOfValue value)

/-- `rd <src>` (R91). -/
def rdRequest (src : Target) : Request := readAt src.off

/-- `ldblk v0, v1, …, vm` from entry `k` on (R92). -/
def ldblkFrom : Nat → List Int → List Request
  | _, [] => []
  | k, v :: vs => writeAt (BitVec.ofNat 12 (0x100 + 4 * k)) (wordOfValue v) :: ldblkFrom (k + 1) vs

/-- `ldblk v0, v1, …, vm` (R92). -/
def ldblk (vs : List Int) : List Request := ldblkFrom 0 vs

/-- `stblk m` (R92). -/
def stblk (m : Nat) : List Request :=
  (List.range (m + 1)).map fun k => readAt (BitVec.ofNat 12 (0x200 + 4 * k))

/-- `clr <mask>` (R92). -/
def clr (mask : Int) : Request := wrRequest .status mask

/-- The read that a `poll` repeats (R92). -/
def pollRead : Request := rdRequest .status

/-- Whether a `poll` ends on a word it has read; the branch is the host's (R92). -/
def pollEnds (mask value rdata : Word) : Bool := rdata &&& mask == value

/-- Whether a `wait` ends: `poll 0x1, 0x0` (R92). -/
def waitEnds (rdata : Word) : Bool := pollEnds 0x1#32 0x0#32 rdata

/-- A command by its mnemonic: `fwd8 y` is `wr CMD, 0x04`, and so on (R92). -/
def commandRequest (op : Op) (size : Size) (plane : Plane) : Request :=
  writeAt 0x004#12 (encodeCommand op size plane)

/-- One hexadecimal digit. -/
def hexDigit (n : Nat) : Char := ['0', '1', '2', '3', '4', '5', '6', '7', '8', '9', 'A', 'B', 'C', 'D', 'E', 'F'].getD (n % 16) '0'

/-- A word as eight hexadecimal digits. -/
def hexWord (w : Word) : List Char :=
  [28, 24, 20, 16, 12, 8, 4, 0].map fun sh => hexDigit (w.toNat / 2 ^ sh)

/-- The mnemonic of a legal command (R84). -/
def mnemonicOf (op : Op) (size : Size) (plane : Plane) : String :=
  (match op with | .fwd => "fwd" | .inv => "inv") ++ (match size with | .n4 => "4" | .n8 => "8") ++ " " ++
    (match plane with | .y => "y" | .u => "u" | .v => "v")

/-- The disassembly of a command word (R91). -/
def disassemble (w : Word) : String :=
  match decodeCommand w with
  | .legal op size plane => mnemonicOf op size plane
  | .illegal => ".cmd 0x" ++ String.ofList (hexWord w) ++ " ; illegal"
  | .mismatch => ".cmd 0x" ++ String.ofList (hexWord w) ++ " ; size-mismatch"

/-- Steps 2 to 5 of the per-block protocol (R234): clear the flags, load the block, issue, read STATUS. -/
def protocolIssue (op : Op) (size : Size) (plane : Plane) (block : List Int) : List Request :=
  clr 0x306 :: ldblk block ++ [commandRequest op size plane, pollRead]

/-- Steps 7 and 8 of the per-block protocol (R234), after the wait of step 6: read STATUS, then the result. -/
def protocolCollect (size : Size) : List Request :=
  pollRead :: stblk (sizeN size * sizeN size - 1)

end Sys2Proof.Machine
end

