-- ==== Sys2Proof/Safety.lean ====
section
/-! DEFINITION. The terms that claims are made in: the engine's invariant, what an event is, a safe run, and host programs
that wait. -/

namespace Sys2Proof.Machine

/-! ### The invariant -/

/-- Whether a command code is a legal command word (R84). -/
def legalCode (c : CmdCode) : Bool := legalCommandWords.contains (wordOfCmd c)

/-- R37: while BUSY, CUR_CMD decodes to a legal command. -/
abbrev Engine.BusyIsLegal (e : Engine) : Prop := e.engState = .busy → legalCode e.curCmd = true

/-- R211: a completion while DONE = 1 cannot occur, since issue clears DONE. -/
abbrev Engine.BusyIsNotDone (e : Engine) : Prop := e.engState = .busy → e.done = false

/-- R32, R200: ERRCODE is nonzero exactly when ERR = 1, and codes 4 to 15 are never produced. -/
abbrev Engine.ErrcodeFits (e : Engine) : Prop := (e.err = true ↔ e.errcode ≠ 0#4) ∧ e.errcode.toNat ≤ 3

/-- R25, R36: LASTCMD is the copy of CUR_CMD, and is a legal word once a command has been accepted. -/
abbrev Engine.LastCmdFits (e : Engine) : Prop :=
  e.lastCmd = e.curCmd ∧ (e.lastCmd = 0#5 ∨ legalCode e.lastCmd = true)

/-- R36: LASTCMD = 0 means that no command has been accepted since reset, so OUT still holds its reset value and no
completion has set a flag. -/
abbrev Engine.FreshFits (e : Engine) : Prop :=
  e.lastCmd = 0#5 →
    e.engState = .idle ∧ e.done = false ∧ e.range = false ∧ e.domain = false ∧ ∀ k : Fin 64, e.outBuf[k] = 0#32

/-- R23: while IDLE after a 4×4 operation, OUT[16..63] hold 0. -/
abbrev Engine.OutTailFits (e : Engine) : Prop :=
  e.engState = .idle → e.lastCmd.getLsbD 2 = false → ∀ k : Fin 64, 16 ≤ k.val → e.outBuf[k] = 0#32

/-- The engine's invariant. -/
abbrev Engine.Inv (e : Engine) : Prop :=
  e.BusyIsLegal ∧ e.BusyIsNotDone ∧ e.ErrcodeFits ∧ e.LastCmdFits ∧ e.FreshFits ∧ e.OutTailFits

/-- The machine's invariant: nothing is asked of what the host will still do. -/
abbrev State.Inv (s : State) : Prop := s.eng.Inv

/-- R114, R151: every entry of OUT lies within the largest of the four output bounds. -/
abbrev Engine.OutBounded (e : Engine) : Prop := ∀ k : Fin 64, -2939324 ≤ e.outInt k.val ∧ e.outInt k.val ≤ 2939324

/-- R150: a claim of decoder parity takes RANGE = 0 after the operation as a premise. -/
abbrev Engine.ParityPremise (e : Engine) : Prop := e.range = false

/-! ### Events -/

/-- The host presents `r` next. -/
abbrev State.NextIsRequest (s : State) (r : Request) : Prop := ∃ rest, s.inputs = .request r :: rest

/-- Reset happens next. -/
abbrev State.NextIsReset (s : State) : Prop := ∃ rest, s.inputs = .reset :: rest

/-- The engine agent moves next. -/
abbrev State.NextIsEngine (s : State) : Prop := s.inputs = [] ∨ ∃ rest, s.inputs = .completion :: rest

/-- The completion step happens next (R37). -/
abbrev State.CompletesNext (s : State) : Prop := s.eng.engState = .busy ∧ s.NextIsEngine

/-- The word that a request writes to CMD, if it reaches CMD at all (R170, R172). -/
def cmdWordOf : Request → Option Word
  | .command w => some w
  | .bus t => if t.kind = .write ∧ t.size = 4 ∧ t.off = 0x004#12 then some t.wdata else none

/-- The word that a request writes to STATUS. -/
def statusWordOf : Request → Option Word
  | .command _ => none
  | .bus t => if t.kind = .write ∧ t.size = 4 ∧ t.off = 0x008#12 then some t.wdata else none

/-- The word that a request writes to CTRL. -/
def ctrlWordOf : Request → Option Word
  | .command _ => none
  | .bus t => if t.kind = .write ∧ t.size = 4 ∧ t.off = 0x00C#12 then some t.wdata else none

/-- The entry and the word of a request that writes IN. -/
def inWordOf : Request → Option (Fin 64 × Word)
  | .command _ => none
  | .bus t =>
    if t.kind = .write ∧ t.size = 4 ∧ t.off.toNat % 4 = 0 ∧ 0x100 ≤ t.off.toNat ∧ t.off.toNat ≤ 0x1FC then
      some (bufferIndex t.off, t.wdata)
    else none

/-- The word is a legal command (R84). -/
abbrev LegalWord (w : Word) : Prop := w ∈ legalCommandWords

/-- A request that an IDLE engine accepts as a command (R181). -/
abbrev IssuesWhenIdle (r : Request) : Prop := ∃ w, cmdWordOf r = some w ∧ LegalWord w

/-- The host presents a legal command next and the engine is IDLE, so that it issues (R181). -/
abbrev State.IssuesNext (s : State) : Prop :=
  s.eng.engState = .idle ∧ ∃ r, s.NextIsRequest r ∧ IssuesWhenIdle r

/-- The response of a transaction is BusError (R202). -/
def Response.isError : Response → Bool
  | .readOk _ => false
  | .writeOk => false
  | .readError _ => true
  | .writeError => true

/-! ### Runs -/

/-- `n` steps reach `t` with no stop. -/
abbrev Reaches (n : Nat) (s t : State) : Prop := Host.Core.run Sys2Proof.core n s = .next t

/-- A safe run: `n` steps with no fault and no refusal. -/
abbrev RunsSafely (n : Nat) (s : State) : Prop := ∃ t, Reaches n s t

/-! ### Host programs that wait (R242) -/

/-- One item of a host program that waits after every issue: a request that issues nothing, a reset, or a legal command
with its `wait` loop, in which `before` STATUS reads come before the completion step and `after + 1` come after it. -/
inductive HostItem where
  | plain (r : Request)
  | reset
  | issueAndWait (r : Request) (before after : Nat)
deriving DecidableEq, Repr

/-- A STATUS read of a `wait` loop (R92). -/
def statusRead : Event := .request (readAt 0x008#12)

/-- A `wait` loop while BUSY: `before` STATUS reads, the completion step, and the `after + 1` STATUS reads after it. -/
def waitEvents (before after : Nat) : List Event :=
  List.replicate before statusRead ++ .completion :: List.replicate (after + 1) statusRead

/-- The events of an item. -/
def HostItem.events : HostItem → List Event
  | .plain r => [.request r]
  | .reset => [.reset]
  | .issueAndWait r before after => .request r :: waitEvents before after

/-- The item keeps R242's condition: what does not wait issues nothing, and what waits is a legal command. -/
def HostItem.Waits : HostItem → Prop
  | .plain r => ¬ IssuesWhenIdle r
  | .reset => True
  | .issueAndWait r _ _ => IssuesWhenIdle r

/-- Two items are the same but for the number of STATUS reads in a `wait` loop and for when the completion falls. -/
def HostItem.SameButForWaiting : HostItem → HostItem → Prop
  | .plain r, .plain r' => r = r'
  | .reset, .reset => True
  | .issueAndWait r _ _, .issueAndWait r' _ _ => r = r'
  | _, _ => False

/-- The events of a host program. -/
def programEvents (p : List HostItem) : List Event := p.flatMap HostItem.events

/-- What the host may use of a response: the data of a read that errs are left out, being any value (R202; log 6). -/
def Response.usable : Response → Bool × Option Word
  | .readOk v => (false, some v)
  | .writeOk => (false, none)
  | .readError _ => (true, none)
  | .writeError => (true, none)

/-- From `s`, the events `es` and the events `fs` run to their ends, to the same engine state and to last responses that
the host may use alike. -/
abbrev State.SameEnd (s : State) (es fs : List Event) : Prop :=
  ∃ t u, Reaches es.length { s with inputs := es } t ∧ Reaches fs.length { s with inputs := fs } u ∧
    t.eng = u.eng ∧ t.response.map Response.usable = u.response.map Response.usable

end Sys2Proof.Machine
end

