-- ==== Sys2Proof/Certificates/Slice0/Obligations.lean ====
section
/-! DEFINITION. The statements for the provers. R<n> is a numbered rule of spec/. -/

open Sys2Proof Sys2Proof.Machine

/-! ### Reset -/

/-- R41: after reset every piece of state holds its reset value, and ID reads its constant (R20). -/
def Obligations.ResetHoldsTheStatedValues : Prop :=
  State.reset.eng.engState = .idle ∧
  (∀ k : Fin 64, State.reset.eng.inBuf[k] = 0#16) ∧
  (∀ k : Fin 64, State.reset.eng.outBuf[k] = 0#32) ∧
  State.reset.eng.done = false ∧ State.reset.eng.err = false ∧ State.reset.eng.errcode = 0#4 ∧
  State.reset.eng.range = false ∧ State.reset.eng.domain = false ∧ State.reset.eng.irqEn = false ∧
  State.reset.eng.lastCmd = 0#5 ∧ State.reset.eng.curCmd = 0#5 ∧
  State.reset.eng.readReg 0x000#12 = some 0x44435401#32 ∧
  State.reset.eng.readReg 0x008#12 = some 0x00000000#32 ∧
  State.reset.eng.readReg 0x00C#12 = some 0x00000000#32 ∧
  State.reset.eng.readReg 0x010#12 = some 0x00000000#32

/-- R230: a reset event, in any state and with anything still to come, gives the engine its reset state, and irq is 0.
The engine is then IDLE, so an operation that was in flight never completes: the next engine turn changes nothing. That
what is still to come stays, and that an IDLE engine's turn is a step, are the model's choices (logs 3, 15). -/
def Obligations.ResetEventRestoresTheResetState : Prop :=
  ∀ (s : State) (rest : List Event), s.inputs = .reset :: rest →
    ∃ t, step s = .next t ∧ t.eng = State.reset.eng ∧ t.inputs = rest ∧ t.eng.irq = false ∧ engineTurn t = .next t

/-! ### Encoding -/

/-- R84: the legal command words, with the fields and the mnemonic of each, and no others. -/
def Obligations.LegalCommandWordsAreTheSix : Prop :=
  (∀ w : Word, (∃ op size plane, decodeCommand w = .legal op size plane) ↔
    w = 0x00000004#32 ∨ w = 0x00000005#32 ∨ w = 0x00000008#32 ∨ w = 0x00000009#32 ∨ w = 0x00000010#32 ∨
      w = 0x00000011#32) ∧
  decodeCommand 0x00000004#32 = .legal .fwd .n8 .y ∧ decode (.command 0x00000004#32) = .ok .fwd8Y ∧
  decodeCommand 0x00000005#32 = .legal .inv .n8 .y ∧ decode (.command 0x00000005#32) = .ok .inv8Y ∧
  decodeCommand 0x00000008#32 = .legal .fwd .n4 .u ∧ decode (.command 0x00000008#32) = .ok .fwd4U ∧
  decodeCommand 0x00000009#32 = .legal .inv .n4 .u ∧ decode (.command 0x00000009#32) = .ok .inv4U ∧
  decodeCommand 0x00000010#32 = .legal .fwd .n4 .v ∧ decode (.command 0x00000010#32) = .ok .fwd4V ∧
  decodeCommand 0x00000011#32 = .legal .inv .n4 .v ∧ decode (.command 0x00000011#32) = .ok .inv4V

/-- R85: which words are illegal, by their fields as numbers; and a write of one to CMD while IDLE sets
ERR with code 1 (an earlier code is kept) and changes nothing else. -/
def Obligations.IllegalWordsAreRejected : Prop :=
  (∀ w : Word, decodeCommand w = .illegal ↔
    w.toNat / 32 ≠ 0 ∨ w.toNat % 4 = 2 ∨ w.toNat % 4 = 3 ∨ w.toNat / 8 % 4 = 3) ∧
  ∀ (w : Word) (s : State) (rest : List Event),
    decodeCommand w = .illegal → s.eng.engState = .idle → s.inputs = .request (writeAt 0x004#12 w) :: rest →
    step s = .next
      { s with
        eng := { s.eng with err := true, errcode := if s.eng.err = true then s.eng.errcode else 1#4 }
        inputs := rest
        response := some .writeOk }

/-- R86: the six mismatching words, which are the words that are not illegal and whose size does not fit their plane; and
a write of one to CMD while IDLE sets ERR with code 2 (an earlier code is kept) and changes nothing else. -/
def Obligations.MismatchingWordsAreRejected : Prop :=
  (∀ w : Word, decodeCommand w = .mismatch ↔
    w = 0x00000000#32 ∨ w = 0x00000001#32 ∨ w = 0x0000000C#32 ∨ w = 0x0000000D#32 ∨ w = 0x00000014#32 ∨
      w = 0x00000015#32) ∧
  (∀ w : Word, decodeCommand w = .mismatch ↔
    decodeCommand w ≠ .illegal ∧
      ((w.toNat / 4 % 2 = 0 ∧ w.toNat / 8 % 4 = 0) ∨
        (w.toNat / 4 % 2 = 1 ∧ (w.toNat / 8 % 4 = 1 ∨ w.toNat / 8 % 4 = 2)))) ∧
  ∀ (w : Word) (s : State) (rest : List Event),
    decodeCommand w = .mismatch → s.eng.engState = .idle → s.inputs = .request (writeAt 0x004#12 w) :: rest →
    step s = .next
      { s with
        eng := { s.eng with err := true, errcode := if s.eng.err = true then s.eng.errcode else 2#4 }
        inputs := rest
        response := some .writeOk }

/-- Words written out from the table of R84 and the keys of R63, R89 decode to their rows. How a table word becomes a
request is the model's choice (log 12). -/
def Obligations.TableWordsDecodeToTheirRows : Prop :=
  decodeTableWord 32 0b10001 = some .inv4V ∧
  decodeTableWord 32 0b01100 = none ∧
  decodeTableWord 16 0b0000000001000 = some .rdStatus ∧
  decodeTableWord 16 0b0000111111100 = some (.rdIn 63) ∧
  decodeTableWord 16 0b0001000000100 = some (.rdOut 1) ∧
  decodeTableWord 16 0b1000100001000 = some (.wrIn 2 0#32) ∧
  decodeTableWord 16 0b1000000010000 = some (.wrLastcmd 0#32) ∧
  decodeTableWord 16 0b1001100000000 = none

/-- Decoding an instruction's request gives the instruction back, for every instruction and every operand. -/
def Obligations.DecodeOfEncodeIsTheInstruction : Prop :=
  ∀ i : Instr, decode (encode i) = .ok i

/-- Each request has one meaning: what the decoder accepts is the encoding of what it gives, but for the write data of a
read, which mean nothing (R89). -/
def Obligations.EncodeOfDecodeIsTheRequest : Prop :=
  (∀ (w : Word) (i : Instr), decode (.command w) = .ok i → encode i = .command w) ∧
  (∀ (t : Transaction) (i : Instr), decode (.bus t) = .ok i →
    encode i = .bus (match t.kind with | .read => { t with wdata := 0#32 } | .write => t))

/-- The decoder accepts exactly the requests that pass the tables of R63, R65, R66 and R84. -/
def Obligations.DecodeAcceptsExactlyTheWellFormed : Prop :=
  ∀ r : Request, (∃ i, decode r = .ok i) ↔ r.wellFormed = true

/-! ### The step -/

/-- The next request that decodes to an instruction is run by `exec` as that instruction, at the state whose inputs have
moved past it; and a table word that decodes is run so from any state. The list of inputs and the form of a table word
are the model's choices (logs 2, 12). -/
def Obligations.StepRunsTheDecodedInstruction : Prop :=
  (∀ (s : State) (r : Request) (rest : List Event) (i : Instr),
    s.inputs = .request r :: rest → decode r = .ok i → step s = exec i { s with inputs := rest }) ∧
  (∀ (s : State) (nbits w : Nat) (i : Instr),
    decodeTableWord nbits w = some i → step (s.withFetchWord nbits w) = exec i s)

/-- R170 to R172: a bus transaction, whatever its size, offset and data, does what the rules' own dispatch says. -/
def Obligations.BusTransactionsFollowTheDispatch : Prop :=
  ∀ (s : State) (t : Transaction) (rest : List Event), s.inputs = .request (.bus t) :: rest →
    step s = .next (State.busTransaction { s with inputs := rest } t)

/-- R202: a transaction gets the error response exactly when it fails a check of R170, and then no engine state
changes. -/
def Obligations.BusErrorChangesNoEngineState : Prop :=
  ∀ (s : State) (t : Transaction) (rest : List Event), s.inputs = .request (.bus t) :: rest →
    ∃ u x, step s = .next u ∧ u.inputs = rest ∧ u.response = some x ∧
      (x.isError = true ↔
        t.size ≠ 4 ∨ t.off.toNat % 4 ≠ 0 ∨ (0x014 ≤ t.off.toNat ∧ t.off.toNat ≤ 0x0FF) ∨ 0x300 ≤ t.off.toNat ∨
          (t.kind = .write ∧
            (t.off.toNat = 0x000 ∨ t.off.toNat = 0x010 ∨ (0x200 ≤ t.off.toNat ∧ t.off.toNat ≤ 0x2FF)))) ∧
      (x.isError = true → u.eng = s.eng)

/-- R92: a command word presented to CMD does what the bus write of it to offset 0x004 does, in every state. For a word
that is no legal command this is the model's reading (log 13). -/
def Obligations.CommandWordIsAWriteToCmd : Prop :=
  ∀ (s : State) (w : Word), step (s.withRequest (.command w)) = step (s.withRequest (writeAt 0x004#12 w))

/-- Every instruction takes a next state, in every state, and leaves what is still to come as it was. -/
def Obligations.EveryInstructionTakesANextState : Prop :=
  ∀ (i : Instr) (s : State), ∃ t, exec i s = .next t ∧ t.inputs = s.inputs

/-- R37, R182: the engine's turn is the completion step of a BUSY engine, which always completes a legal command, and
changes nothing of an IDLE one. When the turn comes, and that an IDLE engine's turn is a step, are the model's choices
(logs 2, 3, 4). -/
def Obligations.CompletionStepIsEnabledExactlyWhileBusy : Prop :=
  ∀ s : State, s.NextIsEngine →
    (s.eng.engState = .idle → step s = .next { s with inputs := s.inputs.tail }) ∧
    (s.eng.engState = .busy → legalCode s.eng.curCmd = true →
      ∃ t, step s = .next t ∧ t.inputs = s.inputs.tail ∧ t.eng.engState = .idle ∧ t.eng.done = true)

/-! ### Commands -/

/-- R181: the four outcomes of a write to CMD, each with everything it leaves unchanged. -/
def Obligations.CmdWriteIssuesOrRejects : Prop :=
  ∀ (w : Word) (s : State),
    (s.eng.engState = .busy →
      exec (.wrCmd w) s = .next
        { s with
          eng := { s.eng with err := true, errcode := if s.eng.err = true then s.eng.errcode else 3#4 }
          response := some .writeOk }) ∧
    (s.eng.engState = .idle → decodeCommand w = .illegal →
      exec (.wrCmd w) s = .next
        { s with
          eng := { s.eng with err := true, errcode := if s.eng.err = true then s.eng.errcode else 1#4 }
          response := some .writeOk }) ∧
    (s.eng.engState = .idle → decodeCommand w = .mismatch →
      exec (.wrCmd w) s = .next
        { s with
          eng := { s.eng with err := true, errcode := if s.eng.err = true then s.eng.errcode else 2#4 }
          response := some .writeOk }) ∧
    (s.eng.engState = .idle → w ∈ legalCommandWords →
      exec (.wrCmd w) s = .next
        { s with
          eng := { s.eng with
            curCmd := w.extractLsb' 0 5, lastCmd := w.extractLsb' 0 5, engState := .busy, done := false }
          response := some .writeOk })

/-- R84, R92, R181: each of the six commands issues on an IDLE engine. -/
def Obligations.CommandsIssueWhenIdle : Prop :=
  ∀ (i : Instr) (c : CmdCode),
    (i, c) ∈ [(Instr.fwd8Y, 0x04#5), (Instr.inv8Y, 0x05#5), (Instr.fwd4U, 0x08#5), (Instr.inv4U, 0x09#5),
      (Instr.fwd4V, 0x10#5), (Instr.inv4V, 0x11#5)] →
    ∀ s : State, s.eng.engState = .idle →
      exec i s = .next
        { s with
          eng := { s.eng with curCmd := c, lastCmd := c, engState := .busy, done := false }
          response := some .writeOk }

/-- R181, R235: each of the six commands is dropped on a BUSY engine, which records BUSY_WRITE and nothing else. -/
def Obligations.CommandsAreDroppedWhileBusy : Prop :=
  ∀ i : Instr, i ∈ [Instr.fwd8Y, Instr.inv8Y, Instr.fwd4U, Instr.inv4U, Instr.fwd4V, Instr.inv4V] →
    ∀ s : State, s.eng.engState = .busy →
      exec i s = .next
        { s with
          eng := { s.eng with err := true, errcode := if s.eng.err = true then s.eng.errcode else 3#4 }
          response := some .writeOk }

/-- R111: FWD8, issued on an IDLE engine and then completed, leaves Forward2D_8 of IN in OUT, sets DOMAIN when an entry
lies outside [−255, 255], is IDLE and DONE, and changes nothing else. -/
def Obligations.Fwd8ComputesTheForwardTransform : Prop :=
  ∀ s : State, s.eng.engState = .idle →
    ∃ t u, exec .fwd8Y s = .next t ∧ completionStep t = .next u ∧
      (∀ k : Fin 64, u.eng.outBuf[k] = BitVec.ofInt 32 (forward8 s.eng.inInt k.val)) ∧
      (u.eng.domain = true ↔
        s.eng.domain = true ∨ ∃ k : Fin 64, (s.eng.inBuf[k]).toInt < -255 ∨ (s.eng.inBuf[k]).toInt > 255) ∧
      u = { s with
        eng := { s.eng with
          curCmd := 0x04#5, lastCmd := 0x04#5, engState := .idle, done := true, outBuf := u.eng.outBuf,
          domain := u.eng.domain }
        response := some .writeOk }

/-- R112: FWD4 on U and on V, issued on an IDLE engine and then completed, leaves Forward2D_4 of IN[0..15] in OUT[0..15]
and 0 in OUT[16..63], sets DOMAIN when one of those sixteen entries lies outside [−255, 255], is IDLE and DONE, and
changes nothing else. -/
def Obligations.Fwd4ComputesTheForwardTransform : Prop :=
  ∀ (i : Instr) (c : CmdCode), (i = .fwd4U ∧ c = 0x08#5) ∨ (i = .fwd4V ∧ c = 0x10#5) →
    ∀ s : State, s.eng.engState = .idle →
      ∃ t u, exec i s = .next t ∧ completionStep t = .next u ∧
        (∀ k : Fin 64, k.val < 16 → u.eng.outBuf[k] = BitVec.ofInt 32 (forward4 s.eng.inInt k.val)) ∧
        (∀ k : Fin 64, 16 ≤ k.val → u.eng.outBuf[k] = 0#32) ∧
        (u.eng.domain = true ↔
          s.eng.domain = true ∨
            ∃ k : Fin 64, k.val < 16 ∧ ((s.eng.inBuf[k]).toInt < -255 ∨ (s.eng.inBuf[k]).toInt > 255)) ∧
        u = { s with
          eng := { s.eng with
            curCmd := c, lastCmd := c, engState := .idle, done := true, outBuf := u.eng.outBuf,
            domain := u.eng.domain }
          response := some .writeOk }

/-- R141: INV8, issued on an IDLE engine and then completed, leaves Inverse2D_8 of IN in OUT, sets RANGE when the range
check failed, is IDLE and DONE, and changes nothing else. -/
def Obligations.Inv8ComputesTheInverseTransform : Prop :=
  ∀ s : State, s.eng.engState = .idle →
    ∃ t u, exec .inv8Y s = .next t ∧ completionStep t = .next u ∧
      (∀ k : Fin 64, u.eng.outBuf[k] = BitVec.ofInt 32 ((inverse8 s.eng.inInt).block k.val)) ∧
      (u.eng.range = true ↔ s.eng.range = true ∨ (inverse8 s.eng.inInt).viol = true) ∧
      u = { s with
        eng := { s.eng with
          curCmd := 0x05#5, lastCmd := 0x05#5, engState := .idle, done := true, outBuf := u.eng.outBuf,
          range := u.eng.range }
        response := some .writeOk }

/-- R142: INV4 on U and on V, issued on an IDLE engine and then completed, leaves Inverse2D_4 of IN[0..15] in OUT[0..15]
and 0 in OUT[16..63], sets RANGE when the range check failed, is IDLE and DONE, and changes nothing else. -/
def Obligations.Inv4ComputesTheInverseTransform : Prop :=
  ∀ (i : Instr) (c : CmdCode), (i = .inv4U ∧ c = 0x09#5) ∨ (i = .inv4V ∧ c = 0x11#5) →
    ∀ s : State, s.eng.engState = .idle →
      ∃ t u, exec i s = .next t ∧ completionStep t = .next u ∧
        (∀ k : Fin 64, k.val < 16 → u.eng.outBuf[k] = BitVec.ofInt 32 ((inverse4 s.eng.inInt).block k.val)) ∧
        (∀ k : Fin 64, 16 ≤ k.val → u.eng.outBuf[k] = 0#32) ∧
        (u.eng.range = true ↔ s.eng.range = true ∨ (inverse4 s.eng.inInt).viol = true) ∧
        u = { s with
          eng := { s.eng with
            curCmd := c, lastCmd := c, engState := .idle, done := true, outBuf := u.eng.outBuf,
            range := u.eng.range }
          response := some .writeOk }

/-- R37: what a completion writes depends on CUR_CMD and IN alone: two engines that agree on them get the same OUT and
the same warnings raised, and it changes no field but OUT, ENG_STATE, DONE, RANGE and DOMAIN. -/
def Obligations.CompletionDependsOnCommandAndInputAlone : Prop :=
  (∀ e e' f : Engine, e.complete = some f → e.curCmd = e'.curCmd → e.inBuf = e'.inBuf →
    ∃ f', e'.complete = some f' ∧ f.outBuf = f'.outBuf ∧
      ∃ hitRange hitDomain : Bool,
        f.range = (e.range || hitRange) ∧ f'.range = (e'.range || hitRange) ∧
        f.domain = (e.domain || hitDomain) ∧ f'.domain = (e'.domain || hitDomain)) ∧
  (∀ e f : Engine, e.complete = some f →
    f = { e with
      engState := .idle, done := true, outBuf := f.outBuf, range := f.range, domain := f.domain })

/-- R112, R142, R238: a 4×4 operation reads only IN[0..15]: engines that agree there get the same OUT and the same
warnings raised. -/
def Obligations.FourByFourIgnoresTheUpperInput : Prop :=
  ∀ e e' : Engine, (∀ k : Fin 64, k.val < 16 → e.inBuf[k] = e'.inBuf[k]) → e.range = e'.range → e.domain = e'.domain →
    e.completeFwd4.outBuf = e'.completeFwd4.outBuf ∧ e.completeFwd4.domain = e'.completeFwd4.domain ∧
    e.completeInv4.outBuf = e'.completeInv4.outBuf ∧ e.completeInv4.range = e'.completeInv4.range

/-! ### Reads -/

/-- R173 to R179: each read answers its register's word, in every state, and changes nothing else. The word of IN[k] is
the one whose signed value is IN[k]. -/
def Obligations.ReadsAnswerTheirRegister : Prop :=
  ∀ s : State,
    exec .rdId s = .next { s with response := some (.readOk 0x44435401#32) } ∧
    exec .rdCmd s = .next { s with response := some (.readOk 0x00000000#32) } ∧
    exec .rdCtrl s = .next
      { s with response := some (.readOk (if s.eng.irqEn = true then 0x00000001#32 else 0x00000000#32)) } ∧
    exec .rdLastcmd s = .next { s with response := some (.readOk (BitVec.ofNat 32 s.eng.lastCmd.toNat)) } ∧
    (∀ k : Fin 64, ∃ v : Word, v.toInt = (s.eng.inBuf[k]).toInt ∧
      exec (.rdIn k) s = .next { s with response := some (.readOk v) }) ∧
    (∀ k : Fin 64, exec (.rdOut k) s = .next { s with response := some (.readOk s.eng.outBuf[k]) })

/-- R175: RD STATUS answers the word with BUSY, DONE, ERR, a zero, ERRCODE, RANGE and DOMAIN from bit 0 up and zeros in
bits 31:10, and changes nothing else. -/
def Obligations.StatusReadHasTheStatedLayout : Prop :=
  ∀ s : State, ∃ v : Word, exec .rdStatus s = .next { s with response := some (.readOk v) } ∧
    (v.getLsbD 0 = true ↔ s.eng.engState = .busy) ∧
    v.getLsbD 1 = s.eng.done ∧ v.getLsbD 2 = s.eng.err ∧ v.getLsbD 3 = false ∧
    v.extractLsb' 4 4 = s.eng.errcode ∧ v.getLsbD 8 = s.eng.range ∧ v.getLsbD 9 = s.eng.domain ∧
    ∀ i, 10 ≤ i → v.getLsbD i = false

/-- R69: a read at any offset, of any size, changes no engine state, and the same read made again at once answers the
same word when it is no bus error. -/
def Obligations.ReadsHaveNoSideEffects : Prop :=
  ∀ (s : State) (t : Transaction) (rest : List Event), t.kind = .read →
    s.inputs = .request (.bus t) :: .request (.bus t) :: rest →
    ∃ u v, step s = .next u ∧ step u = .next v ∧ u.eng = s.eng ∧ v.eng = s.eng ∧
      (t.accepted = true → u.response = v.response)

/-! ### Writes -/

/-- R183: a STATUS write clears exactly the fields of the bits it writes as 1, at any time, and changes nothing else. -/
def Obligations.StatusWriteClearsTheBitsWritten : Prop :=
  ∀ (w : Word) (s : State), ∃ t, exec (.wrStatus w) s = .next t ∧
    t.eng.done = (s.eng.done && !w.getLsbD 1) ∧
    t.eng.err = (s.eng.err && !w.getLsbD 2) ∧
    t.eng.errcode = (if w.getLsbD 2 = true then 0#4 else s.eng.errcode) ∧
    t.eng.range = (s.eng.range && !w.getLsbD 8) ∧
    t.eng.domain = (s.eng.domain && !w.getLsbD 9) ∧
    t = { s with
      eng := { s.eng with
        done := t.eng.done, err := t.eng.err, errcode := t.eng.errcode, range := t.eng.range,
        domain := t.eng.domain }
      response := some .writeOk }

/-- R184: a CTRL write sets IRQ_EN to bit 0, at any time, changes nothing else, takes effect on irq at once, and is what
the next read of CTRL answers. -/
def Obligations.CtrlWriteSetsIrqEnable : Prop :=
  ∀ (w : Word) (s : State), ∃ t u,
    exec (.wrCtrl w) s = .next t ∧
    t = { s with eng := { s.eng with irqEn := w.getLsbD 0 }, response := some .writeOk } ∧
    t.eng.irq = (w.getLsbD 0 && (s.eng.done || s.eng.err)) ∧
    exec .rdCtrl t = .next u ∧
    u.response = some (.readOk (if w.getLsbD 0 = true then 0x00000001#32 else 0x00000000#32))

/-- R186: an IN write stores the low sixteen bits in that entry alone while IDLE, and is dropped with BUSY_WRITE while
BUSY; nothing else changes. -/
def Obligations.InWriteStoresOrIsDropped : Prop :=
  ∀ (k : Fin 64) (w : Word) (s : State),
    (s.eng.engState = .idle → ∃ t, exec (.wrIn k w) s = .next t ∧
      t.eng.inBuf[k] = w.extractLsb' 0 16 ∧
      (∀ j : Fin 64, j ≠ k → t.eng.inBuf[j] = s.eng.inBuf[j]) ∧
      t = { s with eng := { s.eng with inBuf := t.eng.inBuf }, response := some .writeOk }) ∧
    (s.eng.engState = .busy →
      exec (.wrIn k w) s = .next
        { s with
          eng := { s.eng with err := true, errcode := if s.eng.err = true then s.eng.errcode else 3#4 }
          response := some .writeOk })

/-- R90, R178, R239: what is written to IN[k] while IDLE is what the next read of IN[k] answers: the low sixteen bits,
bits 31:16 repeating bit 15. -/
def Obligations.InReadsBackSignExtended : Prop :=
  ∀ (k : Fin 64) (w : Word) (s : State), s.eng.engState = .idle →
    ∃ t u v, exec (.wrIn k w) s = .next t ∧ exec (.rdIn k) t = .next u ∧ u.response = some (.readOk v) ∧
      (∀ i, i < 16 → v.getLsbD i = w.getLsbD i) ∧ (∀ i, 16 ≤ i → i < 32 → v.getLsbD i = w.getLsbD 15)

/-- R180: WR ID, WR LASTCMD and WR OUT[k] complete with BusError, in every state, and change no engine state. -/
def Obligations.WritesToReadOnlyRegistersErr : Prop :=
  ∀ (s : State) (w : Word),
    exec (.wrId w) s = .next { s with response := some .writeError } ∧
    exec (.wrLastcmd w) s = .next { s with response := some .writeError } ∧
    ∀ k : Fin 64, exec (.wrOut k w) s = .next { s with response := some .writeError }

/-! ### Who changes what, over every step -/

/-- R23: OUT changes only by a completion step, or by reset. -/
def Obligations.OutChangesOnlyAtCompletion : Prop :=
  ∀ s t : State, step s = .next t → t.eng.outBuf ≠ s.eng.outBuf → s.CompletesNext ∨ s.NextIsReset

/-- R22, R186: an entry of IN changes only by a write of that entry while IDLE, which stores the low sixteen bits, or by
reset. So IN does not change while an operation is in flight. -/
def Obligations.InChangesOnlyByWritesWhileIdle : Prop :=
  ∀ (s t : State) (k : Fin 64), step s = .next t → t.eng.inBuf[k] ≠ s.eng.inBuf[k] →
    s.NextIsReset ∨
      (s.eng.engState = .idle ∧
        ∃ r w, s.NextIsRequest r ∧ inWordOf r = some (k, w) ∧ t.eng.inBuf[k] = w.extractLsb' 0 16)

/-- R21, R30, R182: BUSY rises exactly at the issue of a legal command on an IDLE engine, and falls exactly at the
completion step or at reset. -/
def Obligations.BusyRisesAtIssueAndFallsAtCompletion : Prop :=
  ∀ s t : State, step s = .next t →
    (s.eng.engState = .idle → (t.eng.engState = .busy ↔ s.IssuesNext)) ∧
    (s.eng.engState = .busy → (t.eng.engState = .idle ↔ s.NextIsEngine ∨ s.NextIsReset))

/-- R31: DONE after a step: 1 after a completion; 0 after an issue, a STATUS write with bit 1, or reset; and otherwise
what it was. -/
def Obligations.DoneFollowsItsRule : Prop :=
  ∀ s t : State, step s = .next t →
    (s.CompletesNext → t.eng.done = true) ∧
    (s.IssuesNext → t.eng.done = false) ∧
    (s.NextIsReset → t.eng.done = false) ∧
    (∀ r w, s.NextIsRequest r → statusWordOf r = some w → w.getLsbD 1 = true → t.eng.done = false) ∧
    (¬ s.CompletesNext → ¬ s.IssuesNext → ¬ s.NextIsReset →
      (¬ ∃ r w, s.NextIsRequest r ∧ statusWordOf r = some w ∧ w.getLsbD 1 = true) → t.eng.done = s.eng.done)

/-- R32: once ERR is 1, ERR stays 1 and ERRCODE keeps its code, whatever further errors occur, until a STATUS write with
bit 2 or reset, which clear both. -/
def Obligations.FirstErrorIsKeptUntilCleared : Prop :=
  ∀ s t : State, step s = .next t →
    (s.NextIsReset → t.eng.err = false ∧ t.eng.errcode = 0#4) ∧
    (∀ r w, s.NextIsRequest r → statusWordOf r = some w → w.getLsbD 2 = true →
      t.eng.err = false ∧ t.eng.errcode = 0#4) ∧
    (s.eng.err = true → ¬ s.NextIsReset →
      (¬ ∃ r w, s.NextIsRequest r ∧ statusWordOf r = some w ∧ w.getLsbD 2 = true) →
      t.eng.err = true ∧ t.eng.errcode = s.eng.errcode)

/-- R205: a step that sets ERR is a request of the host, and changes nothing else of the engine but ERRCODE, which gets
code 3 on a BUSY engine and 1 or 2 on an IDLE one; the engine's own step never sets ERR. -/
def Obligations.ErrorsArePrecise : Prop :=
  ∀ s t : State, step s = .next t → s.eng.err = false → t.eng.err = true →
    (∃ r, s.NextIsRequest r ∧ (cmdWordOf r ≠ none ∨ inWordOf r ≠ none)) ∧
    t.eng = { s.eng with err := true, errcode := t.eng.errcode } ∧
    (s.eng.engState = .busy → t.eng.errcode = 3#4) ∧
    (s.eng.engState = .idle → t.eng.errcode = 1#4 ∨ t.eng.errcode = 2#4)

/-- R33, R34: RANGE and DOMAIN are sticky: each rises only at a completion step, of an inverse command for RANGE and of a
forward one for DOMAIN, and falls only at a STATUS write with its bit or at reset. -/
def Obligations.WarningsAreSticky : Prop :=
  ∀ s t : State, step s = .next t →
    (s.eng.range = false → t.eng.range = true → s.CompletesNext ∧ s.eng.curCmd.getLsbD 0 = true) ∧
    (s.eng.domain = false → t.eng.domain = true → s.CompletesNext ∧ s.eng.curCmd.getLsbD 0 = false) ∧
    (s.eng.range = true → t.eng.range = false →
      s.NextIsReset ∨ ∃ r w, s.NextIsRequest r ∧ statusWordOf r = some w ∧ w.getLsbD 8 = true) ∧
    (s.eng.domain = true → t.eng.domain = false →
      s.NextIsReset ∨ ∃ r w, s.NextIsRequest r ∧ statusWordOf r = some w ∧ w.getLsbD 9 = true)

/-- R25, R35, R36: CUR_CMD and LASTCMD change only at an issue, to the word accepted, or at reset; IRQ_EN changes only at
a CTRL write, or at reset. -/
def Obligations.CommandAndControlRegistersChangeOnlyByTheirOwners : Prop :=
  ∀ s t : State, step s = .next t →
    ((t.eng.lastCmd ≠ s.eng.lastCmd ∨ t.eng.curCmd ≠ s.eng.curCmd) →
      s.NextIsReset ∨
        (s.eng.engState = .idle ∧ ∃ r w, s.NextIsRequest r ∧ cmdWordOf r = some w ∧ LegalWord w ∧
          t.eng.lastCmd = w.extractLsb' 0 5 ∧ t.eng.curCmd = w.extractLsb' 0 5)) ∧
    (t.eng.irqEn ≠ s.eng.irqEn →
      s.NextIsReset ∨ ∃ r w, s.NextIsRequest r ∧ ctrlWordOf r = some w ∧ t.eng.irqEn = w.getLsbD 0)

/-- R206: irq rises only when a completion sets DONE or a rejection sets ERR while IRQ_EN is 1, or when IRQ_EN is set
while DONE or ERR is 1; and it falls only at a STATUS write, at a CTRL write of IRQ_EN = 0, at a legal issue while
ERR = 0, or at reset. -/
def Obligations.IrqRisesAndFallsAsStated : Prop :=
  (∀ e : Engine, e.irq = true ↔ e.irqEn = true ∧ (e.done = true ∨ e.err = true)) ∧
  ∀ s t : State, step s = .next t →
    (s.eng.irq = false → t.eng.irq = true →
      (s.CompletesNext ∧ s.eng.irqEn = true) ∨
      (s.eng.err = false ∧ t.eng.err = true ∧ s.eng.irqEn = true) ∨
      ((s.eng.done = true ∨ s.eng.err = true) ∧
        ∃ r w, s.NextIsRequest r ∧ ctrlWordOf r = some w ∧ w.getLsbD 0 = true)) ∧
    (s.eng.irq = true → t.eng.irq = false →
      s.NextIsReset ∨ (s.IssuesNext ∧ s.eng.err = false) ∨
      (∃ r w, s.NextIsRequest r ∧ statusWordOf r = some w ∧ (w.getLsbD 1 = true ∨ w.getLsbD 2 = true)) ∨
      (∃ r w, s.NextIsRequest r ∧ ctrlWordOf r = some w ∧ w.getLsbD 0 = false))

/-! ### Arithmetic and the transforms

Each statement here about a transform's values rests on the constants of Config, which the spec itself marks as general
knowledge (log 9), and on its own choice of a forward kernel (log 10). -/

/-- R11, R9: Round2 is the floor of x/2^n + 1/2, Clip3 clips, and HalfBtf is Round2 of the weighted sum. -/
def Obligations.RoundingAndClippingPrimitives : Prop :=
  (∀ x : Int, round2 x 0 = x) ∧
  (∀ (x : Int) (n : Nat), 2 * 2 ^ (n + 1) * round2 x (n + 1) ≤ 2 * x + 2 ^ (n + 1) ∧
    2 * x + 2 ^ (n + 1) < 2 * 2 ^ (n + 1) * (round2 x (n + 1) + 1)) ∧
  (∀ lo hi x : Int, lo ≤ hi →
    (x < lo → clip3 lo hi x = lo) ∧ (hi < x → clip3 lo hi x = hi) ∧ (lo ≤ x → x ≤ hi → clip3 lo hi x = x)) ∧
  (∀ (w0 a w1 b : Int) (bit : Nat), halfBtf w0 a w1 b bit = round2 (w0 * a + w1 * b) bit) ∧
  (∀ v : Int, representable v 16 = true ↔ -32768 ≤ v ∧ v ≤ 32767)

/-- R116: Forward2D of zero is zero, a constant block of any value has zero AC coefficients, and the transform is neither
odd-symmetric nor linear; for both sizes. -/
def Obligations.ForwardTransformLaws : Prop :=
  (∀ k, k < 64 → forward8 (fun _ => 0) k = 0) ∧ (∀ k, k < 16 → forward4 (fun _ => 0) k = 0) ∧
  (∀ (c : Int) (k : Nat), 0 < k → k < 64 → forward8 (fun _ => c) k = 0) ∧
  (∀ (c : Int) (k : Nat), 0 < k → k < 16 → forward4 (fun _ => c) k = 0) ∧
  (forward8 (fun _ => 1) 0 = 68 ∧ forward8 (fun _ => -1) 0 = -62) ∧
  (forward4 (fun _ => 256) 0 = 8194 ∧ forward4 (fun _ => -256) 0 = -8192) ∧
  (∃ x y : Nat → Int, ∃ k, k < 64 ∧ forward8 (fun j => x j + y j) k ≠ forward8 x k + forward8 y k) ∧
  (∃ x y : Nat → Int, ∃ k, k < 16 ∧ forward4 (fun j => x j + y j) k ≠ forward4 x k + forward4 y k)

/-- R152: a DC-only input of any 16-bit value gives a constant block of the stated value, and fails no range check; so
the zero block gives zero. -/
def Obligations.InverseOfDcOnlyIsConstant : Prop :=
  ∀ (d : Int) (c : Nat → Int), -32768 ≤ d → d ≤ 32767 → c 0 = d → (∀ k, k ≠ 0 → c k = 0) →
    (∀ k, k < 16 → (inverse4 c).block k = round2 (round2 (round2 (d * 2896) 12 * 2896) 12) 4) ∧
    (∀ k, k < 64 → (inverse8 c).block k = round2 (round2 (round2 (round2 (d * 2896) 12) 1 * 2896) 12) 4) ∧
    (inverse4 c).viol = false ∧ (inverse8 c).viol = false

/-- R114: the bounds of the forward outputs, for 16-bit inputs and for residuals. -/
def Obligations.ForwardOutputsAreBounded : Prop :=
  (∀ x : Nat → Int, (∀ k, k < 64 → -32768 ≤ x k ∧ x k ≤ 32767) →
    ∀ k, k < 64 → -2939324 ≤ forward8 x k ∧ forward8 x k ≤ 2939324) ∧
  (∀ x : Nat → Int, (∀ k, k < 16 → -32768 ≤ x k ∧ x k ≤ 32767) →
    ∀ k, k < 16 → -1048714 ≤ forward4 x k ∧ forward4 x k ≤ 1048714) ∧
  (∀ x : Nat → Int, (∀ k, k < 64 → -255 ≤ x k ∧ x k ≤ 255) →
    ∀ k, k < 64 → -22874 ≤ forward8 x k ∧ forward8 x k ≤ 22874) ∧
  (∀ x : Nat → Int, (∀ k, k < 16 → -255 ≤ x k ∧ x k ≤ 255) →
    ∀ k, k < 16 → -8161 ≤ forward4 x k ∧ forward4 x k ≤ 8161)

/-- R151: the bounds of the inverse outputs. The clamps of R140 bound them for any input. -/
def Obligations.InverseOutputsAreBounded : Prop :=
  (∀ (x : Nat → Int) (k : Nat), k < 64 → -12994 ≤ (inverse8 x).block k ∧ (inverse8 x).block k ≤ 12994) ∧
  (∀ (x : Nat → Int) (k : Nat), k < 16 → -5571 ≤ (inverse4 x).block k ∧ (inverse4 x).block k ≤ 5571)

/-- R37, R114, R151: nothing is lost in OUT: after a completion, read as a signed integer, it holds the block exactly. -/
def Obligations.OutHoldsTheBlockExactly : Prop :=
  ∀ (e : Engine) (k : Nat),
    (k < 64 → e.completeFwd8.outInt k = forward8 e.inInt k) ∧
    (k < 16 → e.completeFwd4.outInt k = forward4 e.inInt k) ∧
    (k < 64 → e.completeInv8.outInt k = (inverse8 e.inInt).block k) ∧
    (k < 16 → e.completeInv4.outInt k = (inverse4 e.inInt).block k)

/-- R140: the row-input clamp never changes an entry of IN; R150: the range check of INV8 and of INV4 fails exactly when
a stored value of a row or of a column lies outside the 16-bit range. -/
def Obligations.RangeIsSetByUnrepresentableStoredValues : Prop :=
  (∀ (e : Engine) (k : Nat), clampTo 16 (e.inInt k) = e.inInt k) ∧
  (∀ x : Nat → Int, (inverse8 x).viol = true ↔
    ∃ i v, i < 8 ∧ (v < -32768 ∨ v > 32767) ∧
      (v ∈ (inverseRow 8 (idct8 Config.cos12 12) x i).stored ∨
        v ∈ (inverseColumn 8 (idct8 Config.cos12 12) 1 x i).stored)) ∧
  (∀ x : Nat → Int, (inverse4 x).viol = true ↔
    ∃ i v, i < 4 ∧ (v < -32768 ∨ v > 32767) ∧
      (v ∈ (inverseRow 4 (idct4 Config.cos12 12) x i).stored ∨
        v ∈ (inverseColumn 4 (idct4 Config.cos12 12) 0 x i).stored))

/-- R115: the round trip is not guaranteed: at both sizes some residual block in [−255, 255] comes back changed. -/
def Obligations.RoundTripIsNotGuaranteed : Prop :=
  (∃ x : Nat → Int, (∀ k, -255 ≤ x k ∧ x k ≤ 255) ∧ ∃ k, k < 64 ∧ (inverse8 (forward8 x)).block k ≠ x k) ∧
  (∃ x : Nat → Int, (∀ k, -255 ≤ x k ∧ x k ≤ 255) ∧ ∃ k, k < 16 ∧ (inverse4 (forward4 x)).block k ≠ x k)

/-! ### The bus window -/

/-- R61, R62: at a base that is a multiple of 4096, an address in the window reaches the offset `addr − BASE`, which is
the address's low twelve bits, and an address outside it reaches nothing. -/
def Obligations.WindowAddressesGiveTheirOffset : Prop :=
  ∀ (base addr size : Nat) (kind : Access) (w : Word), base % 4096 = 0 →
    (base ≤ addr → addr < base + 4096 →
      ∃ t, Transaction.atAddress base addr kind size w = some t ∧
        t.off.toNat = addr - base ∧ t.off.toNat = addr % 4096 ∧ t.kind = kind ∧ t.size = size ∧ t.wdata = w) ∧
    (addr < base ∨ base + 4096 ≤ addr → Transaction.atAddress base addr kind size w = none)

/-- R64: the byte lanes, lane 0 the least significant, make up the word. -/
def Obligations.ByteLanesMakeUpTheWord : Prop :=
  ∀ w : Word, byteLane w 3 ++ byteLane w 2 ++ byteLane w 1 ++ byteLane w 0 = w

/-! ### Invariants and runs -/

/-- The reset state meets the invariant, and its OUT is within the bounds. -/
def Obligations.ResetMeetsTheInvariant : Prop := State.reset.Inv ∧ State.reset.eng.OutBounded

/-- Every step keeps the invariant, from every state that meets it, whatever the host does. -/
def Obligations.EveryStepKeepsTheInvariant : Prop :=
  ∀ s t : State, s.Inv → step s = .next t → t.Inv

/-- Every step keeps OUT within the bounds of R114 and R151, from every state. -/
def Obligations.EveryStepKeepsOutBounded : Prop :=
  ∀ s t : State, s.eng.OutBounded → step s = .next t → t.eng.OutBounded

/-- R205: no run from a state that meets the invariant ever stops: the host may do anything, for any number of steps.
That an IDLE engine with nothing to do still takes a step is the model's choice (logs 3, 4). -/
def Obligations.NoRunStops : Prop :=
  ∀ (s : State) (n : Nat), s.Inv → RunsSafely n s

/-- R240, R236: a BUSY engine with no reset to come completes, after at most one step more than there are inputs. Until
then it stays BUSY and shows the old OUT; then OUT is what the completion of the command and of IN as they stood gives,
whenever it fires. The bound is the model's: its list of inputs is finite (log 2). -/
def Obligations.BusyEngineCompletesWithTheSameResult : Prop :=
  ∀ (s : State) (f : Engine), s.eng.engState = .busy → s.eng.complete = some f → Event.reset ∉ s.inputs →
    ∃ n t, n < s.inputs.length + 1 ∧ Reaches (n + 1) s t ∧
      t.eng.engState = .idle ∧ t.eng.done = true ∧ t.eng.outBuf = f.outBuf ∧ t.eng.inBuf = s.eng.inBuf ∧
      ∀ m, m ≤ n → ∃ u, Reaches m s u ∧
        u.eng.engState = .busy ∧ u.eng.outBuf = s.eng.outBuf ∧ u.eng.inBuf = s.eng.inBuf ∧
        u.eng.curCmd = s.eng.curCmd

/-- R242: two host programs that differ only in their wait loops and in when the completions fall, both waiting after
every issue, reach the same engine state and last responses that the host may use alike (the data of a read that errs are
any value, and nothing is said of them: log 6), from any IDLE engine; and from any BUSY one, when both wait for the
operation in flight first. Taken of every prefix of a program, it says that every transaction outside the wait loops
answers the same. The list of inputs is the model's (log 2). -/
def Obligations.WaitingProgramsAreDeterministic : Prop :=
  ∀ (s : State) (p q : List HostItem), (∀ i ∈ p, i.Waits) → List.Forall₂ HostItem.SameButForWaiting p q →
    (s.eng.engState = .idle → s.SameEnd (programEvents p) (programEvents q)) ∧
    (s.eng.engState = .busy → legalCode s.eng.curCmd = true → ∀ before after before' after' : Nat,
      s.SameEnd (waitEvents before after ++ programEvents p) (waitEvents before' after' ++ programEvents q))
end

