-- ==== Sys2Proof/Laws/State.lean ====
section
/-! SUPPORT. One lemma per field of the engine and of the machine per update, so that no proof unfolds a record update. -/

namespace Sys2Proof.Machine

/-! ### `Engine.setError` -/

@[simp] theorem Engine.setError_engState (e : Engine) (c : ErrorCode) :
    (e.setError c).engState = e.engState := rfl

@[simp] theorem Engine.setError_curCmd (e : Engine) (c : ErrorCode) :
    (e.setError c).curCmd = e.curCmd := rfl

@[simp] theorem Engine.setError_inBuf (e : Engine) (c : ErrorCode) :
    (e.setError c).inBuf = e.inBuf := rfl

@[simp] theorem Engine.setError_outBuf (e : Engine) (c : ErrorCode) :
    (e.setError c).outBuf = e.outBuf := rfl

@[simp] theorem Engine.setError_done (e : Engine) (c : ErrorCode) :
    (e.setError c).done = e.done := rfl

@[simp] theorem Engine.setError_err (e : Engine) (c : ErrorCode) :
    (e.setError c).err = true := rfl

@[simp] theorem Engine.setError_errcode (e : Engine) (c : ErrorCode) :
    (e.setError c).errcode = if e.err then e.errcode else c.code := rfl

@[simp] theorem Engine.setError_range (e : Engine) (c : ErrorCode) :
    (e.setError c).range = e.range := rfl

@[simp] theorem Engine.setError_domain (e : Engine) (c : ErrorCode) :
    (e.setError c).domain = e.domain := rfl

@[simp] theorem Engine.setError_irqEn (e : Engine) (c : ErrorCode) :
    (e.setError c).irqEn = e.irqEn := rfl

@[simp] theorem Engine.setError_lastCmd (e : Engine) (c : ErrorCode) :
    (e.setError c).lastCmd = e.lastCmd := rfl

/-! ### `Engine.statusWrite` -/

@[simp] theorem Engine.statusWrite_engState (e : Engine) (w : Word) :
    (e.statusWrite w).engState = e.engState := rfl

@[simp] theorem Engine.statusWrite_curCmd (e : Engine) (w : Word) :
    (e.statusWrite w).curCmd = e.curCmd := rfl

@[simp] theorem Engine.statusWrite_inBuf (e : Engine) (w : Word) :
    (e.statusWrite w).inBuf = e.inBuf := rfl

@[simp] theorem Engine.statusWrite_outBuf (e : Engine) (w : Word) :
    (e.statusWrite w).outBuf = e.outBuf := rfl

@[simp] theorem Engine.statusWrite_done (e : Engine) (w : Word) :
    (e.statusWrite w).done = if w.getLsbD 1 then false else e.done := rfl

@[simp] theorem Engine.statusWrite_err (e : Engine) (w : Word) :
    (e.statusWrite w).err = if w.getLsbD 2 then false else e.err := rfl

@[simp] theorem Engine.statusWrite_errcode (e : Engine) (w : Word) :
    (e.statusWrite w).errcode = if w.getLsbD 2 then 0#4 else e.errcode := rfl

@[simp] theorem Engine.statusWrite_range (e : Engine) (w : Word) :
    (e.statusWrite w).range = if w.getLsbD 8 then false else e.range := rfl

@[simp] theorem Engine.statusWrite_domain (e : Engine) (w : Word) :
    (e.statusWrite w).domain = if w.getLsbD 9 then false else e.domain := rfl

@[simp] theorem Engine.statusWrite_irqEn (e : Engine) (w : Word) :
    (e.statusWrite w).irqEn = e.irqEn := rfl

@[simp] theorem Engine.statusWrite_lastCmd (e : Engine) (w : Word) :
    (e.statusWrite w).lastCmd = e.lastCmd := rfl

/-! ### `Engine.issue` -/

@[simp] theorem Engine.issue_engState (e : Engine) (w : Word) :
    (e.issue w).engState = .busy := rfl

@[simp] theorem Engine.issue_curCmd (e : Engine) (w : Word) :
    (e.issue w).curCmd = w.low5 := rfl

@[simp] theorem Engine.issue_inBuf (e : Engine) (w : Word) :
    (e.issue w).inBuf = e.inBuf := rfl

@[simp] theorem Engine.issue_outBuf (e : Engine) (w : Word) :
    (e.issue w).outBuf = e.outBuf := rfl

@[simp] theorem Engine.issue_done (e : Engine) (w : Word) :
    (e.issue w).done = false := rfl

@[simp] theorem Engine.issue_err (e : Engine) (w : Word) :
    (e.issue w).err = e.err := rfl

@[simp] theorem Engine.issue_errcode (e : Engine) (w : Word) :
    (e.issue w).errcode = e.errcode := rfl

@[simp] theorem Engine.issue_range (e : Engine) (w : Word) :
    (e.issue w).range = e.range := rfl

@[simp] theorem Engine.issue_domain (e : Engine) (w : Word) :
    (e.issue w).domain = e.domain := rfl

@[simp] theorem Engine.issue_irqEn (e : Engine) (w : Word) :
    (e.issue w).irqEn = e.irqEn := rfl

@[simp] theorem Engine.issue_lastCmd (e : Engine) (w : Word) :
    (e.issue w).lastCmd = w.low5 := rfl

/-! ### `Engine.ctrlWrite` -/

@[simp] theorem Engine.ctrlWrite_engState (e : Engine) (w : Word) :
    (e.ctrlWrite w).engState = e.engState := rfl

@[simp] theorem Engine.ctrlWrite_curCmd (e : Engine) (w : Word) :
    (e.ctrlWrite w).curCmd = e.curCmd := rfl

@[simp] theorem Engine.ctrlWrite_inBuf (e : Engine) (w : Word) :
    (e.ctrlWrite w).inBuf = e.inBuf := rfl

@[simp] theorem Engine.ctrlWrite_outBuf (e : Engine) (w : Word) :
    (e.ctrlWrite w).outBuf = e.outBuf := rfl

@[simp] theorem Engine.ctrlWrite_done (e : Engine) (w : Word) :
    (e.ctrlWrite w).done = e.done := rfl

@[simp] theorem Engine.ctrlWrite_err (e : Engine) (w : Word) :
    (e.ctrlWrite w).err = e.err := rfl

@[simp] theorem Engine.ctrlWrite_errcode (e : Engine) (w : Word) :
    (e.ctrlWrite w).errcode = e.errcode := rfl

@[simp] theorem Engine.ctrlWrite_range (e : Engine) (w : Word) :
    (e.ctrlWrite w).range = e.range := rfl

@[simp] theorem Engine.ctrlWrite_domain (e : Engine) (w : Word) :
    (e.ctrlWrite w).domain = e.domain := rfl

@[simp] theorem Engine.ctrlWrite_irqEn (e : Engine) (w : Word) :
    (e.ctrlWrite w).irqEn = w.getLsbD 0 := rfl

@[simp] theorem Engine.ctrlWrite_lastCmd (e : Engine) (w : Word) :
    (e.ctrlWrite w).lastCmd = e.lastCmd := rfl

/-! ### `Engine.setIn` -/

@[simp] theorem Engine.setIn_engState (e : Engine) (k : Fin 64) (h : Half) :
    (e.setIn k h).engState = e.engState := rfl

@[simp] theorem Engine.setIn_curCmd (e : Engine) (k : Fin 64) (h : Half) :
    (e.setIn k h).curCmd = e.curCmd := rfl

@[simp] theorem Engine.setIn_inBuf (e : Engine) (k : Fin 64) (h : Half) :
    (e.setIn k h).inBuf = e.inBuf.set k.val h k.isLt := rfl

@[simp] theorem Engine.setIn_outBuf (e : Engine) (k : Fin 64) (h : Half) :
    (e.setIn k h).outBuf = e.outBuf := rfl

@[simp] theorem Engine.setIn_done (e : Engine) (k : Fin 64) (h : Half) :
    (e.setIn k h).done = e.done := rfl

@[simp] theorem Engine.setIn_err (e : Engine) (k : Fin 64) (h : Half) :
    (e.setIn k h).err = e.err := rfl

@[simp] theorem Engine.setIn_errcode (e : Engine) (k : Fin 64) (h : Half) :
    (e.setIn k h).errcode = e.errcode := rfl

@[simp] theorem Engine.setIn_range (e : Engine) (k : Fin 64) (h : Half) :
    (e.setIn k h).range = e.range := rfl

@[simp] theorem Engine.setIn_domain (e : Engine) (k : Fin 64) (h : Half) :
    (e.setIn k h).domain = e.domain := rfl

@[simp] theorem Engine.setIn_irqEn (e : Engine) (k : Fin 64) (h : Half) :
    (e.setIn k h).irqEn = e.irqEn := rfl

@[simp] theorem Engine.setIn_lastCmd (e : Engine) (k : Fin 64) (h : Half) :
    (e.setIn k h).lastCmd = e.lastCmd := rfl

/-! ### `Engine.finish` -/

@[simp] theorem Engine.finish_engState (e : Engine) (out : Vector Word 64) :
    (e.finish out).engState = .idle := rfl

@[simp] theorem Engine.finish_curCmd (e : Engine) (out : Vector Word 64) :
    (e.finish out).curCmd = e.curCmd := rfl

@[simp] theorem Engine.finish_inBuf (e : Engine) (out : Vector Word 64) :
    (e.finish out).inBuf = e.inBuf := rfl

@[simp] theorem Engine.finish_outBuf (e : Engine) (out : Vector Word 64) :
    (e.finish out).outBuf = out := rfl

@[simp] theorem Engine.finish_done (e : Engine) (out : Vector Word 64) :
    (e.finish out).done = true := rfl

@[simp] theorem Engine.finish_err (e : Engine) (out : Vector Word 64) :
    (e.finish out).err = e.err := rfl

@[simp] theorem Engine.finish_errcode (e : Engine) (out : Vector Word 64) :
    (e.finish out).errcode = e.errcode := rfl

@[simp] theorem Engine.finish_range (e : Engine) (out : Vector Word 64) :
    (e.finish out).range = e.range := rfl

@[simp] theorem Engine.finish_domain (e : Engine) (out : Vector Word 64) :
    (e.finish out).domain = e.domain := rfl

@[simp] theorem Engine.finish_irqEn (e : Engine) (out : Vector Word 64) :
    (e.finish out).irqEn = e.irqEn := rfl

@[simp] theorem Engine.finish_lastCmd (e : Engine) (out : Vector Word 64) :
    (e.finish out).lastCmd = e.lastCmd := rfl

/-! ### `Engine.finishForward` -/

@[simp] theorem Engine.finishForward_engState (e : Engine) (n : Size) (f : (Nat → Int) → Nat → Int) :
    (e.finishForward n f).engState = .idle := rfl

@[simp] theorem Engine.finishForward_curCmd (e : Engine) (n : Size) (f : (Nat → Int) → Nat → Int) :
    (e.finishForward n f).curCmd = e.curCmd := rfl

@[simp] theorem Engine.finishForward_inBuf (e : Engine) (n : Size) (f : (Nat → Int) → Nat → Int) :
    (e.finishForward n f).inBuf = e.inBuf := rfl

@[simp] theorem Engine.finishForward_outBuf (e : Engine) (n : Size) (f : (Nat → Int) → Nat → Int) :
    (e.finishForward n f).outBuf = outOfBlock (sizeN n * sizeN n) (f e.inInt) := rfl

@[simp] theorem Engine.finishForward_done (e : Engine) (n : Size) (f : (Nat → Int) → Nat → Int) :
    (e.finishForward n f).done = true := rfl

@[simp] theorem Engine.finishForward_err (e : Engine) (n : Size) (f : (Nat → Int) → Nat → Int) :
    (e.finishForward n f).err = e.err := rfl

@[simp] theorem Engine.finishForward_errcode (e : Engine) (n : Size) (f : (Nat → Int) → Nat → Int) :
    (e.finishForward n f).errcode = e.errcode := rfl

@[simp] theorem Engine.finishForward_range (e : Engine) (n : Size) (f : (Nat → Int) → Nat → Int) :
    (e.finishForward n f).range = e.range := rfl

@[simp] theorem Engine.finishForward_domain (e : Engine) (n : Size) (f : (Nat → Int) → Nat → Int) :
    (e.finishForward n f).domain = (e.domain || domainHit (sizeN n * sizeN n) e.inInt) := rfl

@[simp] theorem Engine.finishForward_irqEn (e : Engine) (n : Size) (f : (Nat → Int) → Nat → Int) :
    (e.finishForward n f).irqEn = e.irqEn := rfl

@[simp] theorem Engine.finishForward_lastCmd (e : Engine) (n : Size) (f : (Nat → Int) → Nat → Int) :
    (e.finishForward n f).lastCmd = e.lastCmd := rfl

/-! ### `Engine.finishInverse` -/

@[simp] theorem Engine.finishInverse_engState (e : Engine) (n : Size) (f : (Nat → Int) → InverseResult) :
    (e.finishInverse n f).engState = .idle := rfl

@[simp] theorem Engine.finishInverse_curCmd (e : Engine) (n : Size) (f : (Nat → Int) → InverseResult) :
    (e.finishInverse n f).curCmd = e.curCmd := rfl

@[simp] theorem Engine.finishInverse_inBuf (e : Engine) (n : Size) (f : (Nat → Int) → InverseResult) :
    (e.finishInverse n f).inBuf = e.inBuf := rfl

@[simp] theorem Engine.finishInverse_outBuf (e : Engine) (n : Size) (f : (Nat → Int) → InverseResult) :
    (e.finishInverse n f).outBuf = outOfBlock (sizeN n * sizeN n) (f e.inInt).block := rfl

@[simp] theorem Engine.finishInverse_done (e : Engine) (n : Size) (f : (Nat → Int) → InverseResult) :
    (e.finishInverse n f).done = true := rfl

@[simp] theorem Engine.finishInverse_err (e : Engine) (n : Size) (f : (Nat → Int) → InverseResult) :
    (e.finishInverse n f).err = e.err := rfl

@[simp] theorem Engine.finishInverse_errcode (e : Engine) (n : Size) (f : (Nat → Int) → InverseResult) :
    (e.finishInverse n f).errcode = e.errcode := rfl

@[simp] theorem Engine.finishInverse_range (e : Engine) (n : Size) (f : (Nat → Int) → InverseResult) :
    (e.finishInverse n f).range = (e.range || (f e.inInt).viol) := rfl

@[simp] theorem Engine.finishInverse_domain (e : Engine) (n : Size) (f : (Nat → Int) → InverseResult) :
    (e.finishInverse n f).domain = e.domain := rfl

@[simp] theorem Engine.finishInverse_irqEn (e : Engine) (n : Size) (f : (Nat → Int) → InverseResult) :
    (e.finishInverse n f).irqEn = e.irqEn := rfl

@[simp] theorem Engine.finishInverse_lastCmd (e : Engine) (n : Size) (f : (Nat → Int) → InverseResult) :
    (e.finishInverse n f).lastCmd = e.lastCmd := rfl

/-! ### The machine -/

@[simp] theorem State.replyRead_eng (s : State) (v : Word) :
    (s.replyRead v).eng = s.eng := rfl

@[simp] theorem State.replyRead_inputs (s : State) (v : Word) :
    (s.replyRead v).inputs = s.inputs := rfl

@[simp] theorem State.replyRead_response (s : State) (v : Word) :
    (s.replyRead v).response = some (.readOk v) := rfl

@[simp] theorem State.replyRead_freeCount (s : State) (v : Word) :
    (s.replyRead v).freeCount = s.freeCount := rfl

@[simp] theorem State.replyWrite_eng (s : State) (e : Engine) :
    (s.replyWrite e).eng = e := rfl

@[simp] theorem State.replyWrite_inputs (s : State) (e : Engine) :
    (s.replyWrite e).inputs = s.inputs := rfl

@[simp] theorem State.replyWrite_response (s : State) (e : Engine) :
    (s.replyWrite e).response = some .writeOk := rfl

@[simp] theorem State.replyWrite_freeCount (s : State) (e : Engine) :
    (s.replyWrite e).freeCount = s.freeCount := rfl

@[simp] theorem State.resetEvent_eng (s : State) :
    (s.resetEvent).eng = Engine.reset := rfl

@[simp] theorem State.resetEvent_inputs (s : State) :
    (s.resetEvent).inputs = s.inputs := rfl

@[simp] theorem State.resetEvent_response (s : State) :
    (s.resetEvent).response = none := rfl

@[simp] theorem State.resetEvent_freeCount (s : State) :
    (s.resetEvent).freeCount = s.freeCount := rfl

@[simp] theorem State.withRequest_eng (s : State) (r : Request) :
    (s.withRequest r).eng = s.eng := rfl

@[simp] theorem State.withRequest_inputs (s : State) (r : Request) :
    (s.withRequest r).inputs = .request r :: s.inputs := rfl

@[simp] theorem State.withRequest_response (s : State) (r : Request) :
    (s.withRequest r).response = s.response := rfl

@[simp] theorem State.withRequest_freeCount (s : State) (r : Request) :
    (s.withRequest r).freeCount = s.freeCount := rfl

@[simp] theorem State.busError_eng (s : State) (k : Access) : (s.busError k).eng = s.eng := by
  cases k <;> rfl

@[simp] theorem State.busError_inputs (s : State) (k : Access) : (s.busError k).inputs = s.inputs := by
  cases k <;> rfl

@[simp] theorem State.busError_write_response (s : State) : (s.busError .write).response = some .writeError := rfl

@[simp] theorem State.busError_read_response (s : State) :
    (s.busError .read).response = some (.readError (Config.busErrorData s.freeCount)) := rfl

@[simp] theorem Engine.busy_iff (e : Engine) : e.busy = true ↔ e.engState = .busy := by
  simp [Engine.busy]

@[simp] theorem Engine.not_busy_iff (e : Engine) : e.busy = false ↔ e.engState = .idle := by
  cases h : e.engState <;> simp [Engine.busy, h]

end Sys2Proof.Machine
end

