-- ==== Sys2Proof/Laws/Arith.lean ====
section
/-! SUPPORT. Bounds and values of the arithmetic primitives, in the form `omega` takes: each kernel's width claim is
these lemmas, once per stored value. -/

namespace Sys2Proof.Machine

theorem round2_zero (x : Int) : round2 x 0 = x := rfl

theorem round2_succ (x : Int) (n : Nat) : round2 x (n + 1) = (x + 2 ^ n) / 2 ^ (n + 1) := rfl

/-- Round2 is monotone, so the bounds of its argument bound it. -/
theorem round2_mono {x y : Int} (n : Nat) (h : x ≤ y) : round2 x n ≤ round2 y n := by
  cases n with
  | zero => exact h
  | succ m => exact Int.ediv_le_ediv (by positivity) (by simp only [Int.add_le_add_iff_right]; exact h)

theorem round2_of_zero (n : Nat) : round2 0 n = 0 := by
  cases n with
  | zero => rfl
  | succ m =>
    rw [round2_succ]
    refine Int.ediv_eq_zero_of_lt (by positivity) ?_
    rw [zero_add]
    exact pow_lt_pow_right₀ (by norm_num) (Nat.lt_succ_self m)

theorem halfBtf_13 (w0 a w1 b : Int) : halfBtf w0 a w1 b 13 = (w0 * a + w1 * b + 4096) / 8192 := rfl

theorem halfBtf_12 (w0 a w1 b : Int) : halfBtf w0 a w1 b 12 = (w0 * a + w1 * b + 2048) / 4096 := rfl

/-- `Forward2D_4` as R110 writes it: the input times 4, and no other shift. -/
theorem forward4_apply (x : Nat → Int) (k : Nat) :
    forward4 x k =
      (fdct4 Config.cos13 13 fun j => (fdct4 Config.cos13 13 fun i => x (i * 4 + j) * 4).getD (k / 4) 0).getD
        (k % 4) 0 := rfl

/-- `Forward2D_8` as R110 writes it: the input times 4, and one bit off between the passes. -/
theorem forward8_apply (x : Nat → Int) (k : Nat) :
    forward8 x k =
      (fdct8 Config.cos13 13 fun j =>
        round2 ((fdct8 Config.cos13 13 fun i => x (i * 8 + j) * 4).getD (k / 8) 0) 1).getD (k % 8) 0 := rfl

/-- A clamped value lies within the clamp's bounds (R140). -/
theorem clampTo_16_bounds (x : Int) : -32768 ≤ clampTo 16 x ∧ clampTo 16 x ≤ 32767 := by
  simp only [clampTo, clip3]
  norm_num
  split_ifs <;> omega

/-- The clamp keeps a value that is within its bounds (R140). -/
theorem clampTo_16_of_bounds {x : Int} (h1 : -32768 ≤ x) (h2 : x ≤ 32767) : clampTo 16 x = x := by
  simp only [clampTo, clip3]
  norm_num
  split_ifs <;> omega

/-- Every entry of IN is a 16-bit integer (R22). -/
theorem Engine.inInt_bounds (e : Engine) (k : Nat) : -32768 ≤ e.inInt k ∧ e.inInt k ≤ 32767 := by
  unfold Engine.inInt
  split_ifs with h
  · have h1 := BitVec.le_toInt (x := e.inBuf[k])
    have h2 := BitVec.toInt_lt (x := e.inBuf[k])
    norm_num at h1 h2
    omega
  · norm_num

/-- A value of 32 bits is stored in OUT without loss (R37). -/
theorem outEntryOfInt_toInt {v : Int} (h1 : -2147483648 ≤ v) (h2 : v ≤ 2147483647) : (outEntryOfInt v).toInt = v := by
  rw [outEntryOfInt, BitVec.toInt_ofInt]
  rw [Int.bmod_eq_of_le] <;> norm_num <;> omega

end Sys2Proof.Machine
end

