-- ==== Sys2Proof/Laws/Decode.lean ====
section
/-! SUPPORT. The decoder's bit fields as numbers, and when each of its functions accepts. -/

namespace Sys2Proof

theorem opBits_toNat (w : Word) : (opBits w).toNat = w.toNat % 4 := by
  simp [opBits, BitVec.extractLsb'_toNat]

theorem planeBits_toNat (w : Word) : (planeBits w).toNat = w.toNat / 8 % 4 := by
  simp [planeBits, BitVec.extractLsb'_toNat, Nat.shiftRight_eq_div_pow]

theorem rsvdBits_toNat (w : Word) : (rsvdBits w).toNat = w.toNat / 32 := by
  have := w.isLt
  simp [rsvdBits, BitVec.extractLsb'_toNat, Nat.shiftRight_eq_div_pow]
  omega

theorem sizeBit_eq (w : Word) : sizeBit w = decide (w.toNat / 4 % 2 = 1) := by
  simp [sizeBit, BitVec.getLsbD, Nat.testBit, Nat.shiftRight_eq_div_pow, Nat.one_and_eq_mod_two, bne, BEq.beq]
  rcases Nat.mod_two_eq_zero_or_one (w.toNat / 4) with h | h <;> simp [h]

/-- A word whose reserved bits are zero is one of thirty-two: a claim about such words is a finite one. -/
theorem word_of_rsvd_zero {w : Word} (h : rsvdBits w = 0#27) : ∃ n : Fin 32, w = BitVec.ofNat 32 n.val := by
  have h1 : w.toNat / 32 = 0 := by rw [← rsvdBits_toNat, h]; rfl
  exact ⟨⟨w.toNat, by omega⟩, by simp⟩

theorem decodeCommand_of_rsvd {w : Word} (h : rsvdBits w ≠ 0#27) : decodeCommand w = .illegal := by
  simp [decodeCommand, h]

/-- A legal word is the zero extension of its low five bits: issue loses nothing of it. -/
theorem legalWord_of_low5 {w : Word} (h : w ∈ legalCommandWords) : Machine.wordOfCmd w.low5 = w := by
  simp only [legalCommandWords, List.mem_cons, List.not_mem_nil, or_false] at h
  rcases h with rfl | rfl | rfl | rfl | rfl | rfl <;> decide

theorem pageOf_toNat (off : Offset) : (pageOf off).toNat = off.toNat / 256 := by
  have := off.isLt
  simp [pageOf, BitVec.extractLsb'_toNat, Nat.shiftRight_eq_div_pow]
  omega

theorem pageOf_eq_one_iff (off : Offset) : pageOf off = 1#4 ↔ 0x100 ≤ off.toNat ∧ off.toNat ≤ 0x1FF := by
  rw [← BitVec.toNat_inj, pageOf_toNat]
  simp
  omega

theorem pageOf_eq_two_iff (off : Offset) : pageOf off = 2#4 ↔ 0x200 ≤ off.toNat ∧ off.toNat ≤ 0x2FF := by
  rw [← BitVec.toNat_inj, pageOf_toNat]
  simp
  omega

theorem entryOf_val (off : Offset) : (entryOf off).val = off.toNat / 4 % 64 := by
  simp [entryOf, BitVec.extractLsb'_toNat, Nat.shiftRight_eq_div_pow]

theorem lowBits_eq_zero_iff (off : Offset) : off.extractLsb' 0 2 = 0#2 ↔ off.toNat % 4 = 0 := by
  rw [← BitVec.toNat_inj]
  simp [BitVec.extractLsb'_toNat]

theorem offset_eq_iff (off : Offset) (n : Nat) (h : n < 4096) : off = BitVec.ofNat 12 n ↔ off.toNat = n := by
  rw [← BitVec.toNat_inj]
  simp
  omega

theorem inOffset_toNat (k : Fin 64) : (inOffset k).toNat = 0x100 + 4 * k.val := by
  have := k.isLt
  simp [inOffset]
  omega

theorem outOffset_toNat (k : Fin 64) : (outOffset k).toNat = 0x200 + 4 * k.val := by
  have := k.isLt
  simp [outOffset]
  omega

theorem entryOf_inOffset (k : Fin 64) : entryOf (inOffset k) = k := by
  apply Fin.ext
  rw [entryOf_val, inOffset_toNat]
  omega

theorem entryOf_outOffset (k : Fin 64) : entryOf (outOffset k) = k := by
  apply Fin.ext
  rw [entryOf_val, outOffset_toNat]
  omega

/-! ### The checks of a transaction, in R170's order -/

theorem decodeTransaction_badSize {t : Transaction} (h : t.size ≠ 4) : decodeTransaction t = .error .badSize := by
  simp [decodeTransaction, h]

theorem decodeTransaction_misaligned {t : Transaction} (h : t.size = 4) (ha : t.off.toNat % 4 ≠ 0) :
    decodeTransaction t = .error .misaligned := by
  have : t.off.extractLsb' 0 2 ≠ 0#2 := fun h => ha ((lowBits_eq_zero_iff _).1 h)
  simp [decodeTransaction, h, this]

theorem decodeTransaction_aligned {t : Transaction} (h : t.size = 4) (ha : t.off.toNat % 4 = 0) :
    decodeTransaction t =
      match t.kind with
      | .read => decodeRead t.off
      | .write => decodeWrite t.off t.wdata := by
  have : t.off.extractLsb' 0 2 = 0#2 := (lowBits_eq_zero_iff _).2 ha
  cases hk : t.kind <;> simp [decodeTransaction, h, this, hk]

/-- The dispatch of a read by numbers (R171). -/
theorem decodeRead_eq (off : Offset) :
    decodeRead off =
      if off.toNat = 0x000 then .ok .rdId
      else if off.toNat = 0x004 then .ok .rdCmd
      else if off.toNat = 0x008 then .ok .rdStatus
      else if off.toNat = 0x00C then .ok .rdCtrl
      else if off.toNat = 0x010 then .ok .rdLastcmd
      else if 0x100 ≤ off.toNat ∧ off.toNat ≤ 0x1FF then .ok (.rdIn (entryOf off))
      else if 0x200 ≤ off.toNat ∧ off.toNat ≤ 0x2FF then .ok (.rdOut (entryOf off))
      else .error .reservedOffset := by
  simp only [decodeRead, pageOf_eq_one_iff, pageOf_eq_two_iff, offset_eq_iff off 0x000 (by decide),
    offset_eq_iff off 0x004 (by decide), offset_eq_iff off 0x008 (by decide), offset_eq_iff off 0x00C (by decide),
    offset_eq_iff off 0x010 (by decide)]

/-- The dispatch of a write by numbers (R172, R180). -/
theorem decodeWrite_eq (off : Offset) (w : Word) :
    decodeWrite off w =
      if off.toNat = 0x000 then .ok (.wrId w)
      else if off.toNat = 0x004 then .ok (.wrCmd w)
      else if off.toNat = 0x008 then .ok (.wrStatus w)
      else if off.toNat = 0x00C then .ok (.wrCtrl w)
      else if off.toNat = 0x010 then .ok (.wrLastcmd w)
      else if 0x100 ≤ off.toNat ∧ off.toNat ≤ 0x1FF then .ok (.wrIn (entryOf off) w)
      else if 0x200 ≤ off.toNat ∧ off.toNat ≤ 0x2FF then .ok (.wrOut (entryOf off) w)
      else .error .reservedOffset := by
  simp only [decodeWrite, pageOf_eq_one_iff, pageOf_eq_two_iff, offset_eq_iff off 0x000 (by decide),
    offset_eq_iff off 0x004 (by decide), offset_eq_iff off 0x008 (by decide), offset_eq_iff off 0x00C (by decide),
    offset_eq_iff off 0x010 (by decide)]

namespace Machine

theorem bufferIndex_eq_entryOf (off : Offset) : bufferIndex off = entryOf off :=
  Fin.ext (entryOf_val off).symm

end Machine

end Sys2Proof
end

