-- ==== Sys2Proof/Laws/Ops.lean ====
section
/-! SUPPORT. One lemma per shared operation, saying once everything it can do; and the inversion lemmas of a request and
of a step, which later proofs cite instead of unfolding the step. -/

namespace Sys2Proof.Machine

/-! ### Writes -/

/-- Everything a CMD write can do (R181). -/
theorem Engine.cmdWrite_cases (e : Engine) (w : Word) :
    (e.engState = .busy ∧ e.cmdWrite w = e.setError .busyWrite) ∨
    (e.engState = .idle ∧ decodeCommand w = .illegal ∧ e.cmdWrite w = e.setError .illegalCmd) ∨
    (e.engState = .idle ∧ decodeCommand w = .mismatch ∧ e.cmdWrite w = e.setError .transformSizeMismatch) ∨
    (e.engState = .idle ∧ (∃ op size plane, decodeCommand w = .legal op size plane) ∧ e.cmdWrite w = e.issue w) := by
  cases hb : e.engState with
  | busy => simp [Engine.cmdWrite, Engine.busy, hb]
  | idle =>
    cases hd : decodeCommand w <;> simp [Engine.cmdWrite, Engine.busy, hb, hd]

/-- Everything an IN write can do (R186). -/
theorem Engine.inWrite_cases (e : Engine) (k : Fin 64) (w : Word) :
    (e.engState = .busy ∧ e.inWrite k w = e.setError .busyWrite) ∨
    (e.engState = .idle ∧ e.inWrite k w = e.setIn k w.low16) := by
  cases hb : e.engState <;> simp [Engine.inWrite, Engine.busy, hb, inEntryOfWord]

/-- An entry of IN after a write of one (R186). -/
theorem Engine.setIn_get (e : Engine) (k j : Fin 64) (h : Half) :
    (e.setIn k h).inBuf[j] = if j = k then h else e.inBuf[j] := by
  by_cases hjk : j = k
  · subst hjk; simp [Engine.setIn]
  · have : k.val ≠ j.val := fun h => hjk (Fin.ext h.symm)
    simp [Engine.setIn, hjk, this]

/-! ### Completion -/

/-- OUT after a completion, entry by entry (R23, R37). -/
theorem outOfBlock_get (count : Nat) (y : Nat → Int) (k : Fin 64) :
    (outOfBlock count y)[k] = if k.val < count then BitVec.ofInt 32 (y k.val) else 0#32 := by
  simp [outOfBlock, outEntryOfInt]

@[simp] theorem sizeN_n4 : sizeN .n4 = 4 := rfl

@[simp] theorem sizeN_n8 : sizeN .n8 = 8 := rfl

/-- DOMAIN is raised exactly by an entry outside [−255, 255] among those read (R113). -/
theorem domainHit_iff (count : Nat) (x : Nat → Int) :
    domainHit count x = true ↔ ∃ k, k < count ∧ (x k < -255 ∨ x k > 255) := by
  have h (v : Int) : outsideResidual v = true ↔ v < -255 ∨ v > 255 := by
    rw [outsideResidual, Bool.or_eq_true, decide_eq_true_eq, decide_eq_true_eq]
    rfl
  simp only [domainHit, List.any_eq_true, List.mem_range, h]

/-- Everything a completion can be (R37): one of the four, picked by CUR_CMD. -/
theorem Engine.complete_cases {e f : Engine} (h : e.complete = some f) :
    ∃ op size plane, decodeCommand (wordOfCmd e.curCmd) = .legal op size plane ∧
      f = match op, size with
        | .fwd, .n8 => e.completeFwd8
        | .fwd, .n4 => e.completeFwd4
        | .inv, .n8 => e.completeInv8
        | .inv, .n4 => e.completeInv4 := by
  unfold Engine.complete at h
  cases hd : decodeCommand (wordOfCmd e.curCmd) with
  | illegal => simp [hd] at h
  | mismatch => simp [hd] at h
  | legal op size plane =>
    refine ⟨op, size, plane, rfl, ?_⟩
    cases op <;> cases size <;> simp [hd] at h <;> exact h.symm

/-- A legal code completes (R37: always legal while BUSY). -/
theorem Engine.complete_of_legal {e : Engine} (h : legalCode e.curCmd = true) : ∃ f, e.complete = some f := by
  unfold Engine.complete
  generalize e.curCmd = c at h
  have hc : ∀ c : CmdCode, legalCode c = true →
      decodeCommand (wordOfCmd c) ≠ .illegal ∧ decodeCommand (wordOfCmd c) ≠ .mismatch := by decide
  have := hc c h
  cases hd : decodeCommand (wordOfCmd c) with
  | illegal => simp [hd] at this
  | mismatch => simp [hd] at this
  | legal op size plane => cases op <;> cases size <;> simp

/-- What a completion leaves unchanged, whatever the command (R37). -/
theorem Engine.complete_frame {e f : Engine} (h : e.complete = some f) :
    f = { e with
      engState := .idle, done := true, outBuf := f.outBuf, range := f.range, domain := f.domain } := by
  obtain ⟨op, size, plane, -, rfl⟩ := Engine.complete_cases h
  cases op <;> cases size <;> rfl

/-! ### Requests -/

/-- What a host request does to the engine, by the register it reaches. -/
def hostEffect (r : Request) (e : Engine) : Engine :=
  match cmdWordOf r, statusWordOf r, ctrlWordOf r, inWordOf r with
  | some w, _, _, _ => e.cmdWrite w
  | none, some w, _, _ => e.statusWrite w
  | none, none, some w, _ => e.ctrlWrite w
  | none, none, none, some (k, w) => e.inWrite k w
  | none, none, none, none => e

/-- A request reaches at most one register. -/
theorem oneTarget (r : Request) :
    (∀ w, cmdWordOf r = some w → statusWordOf r = none ∧ ctrlWordOf r = none ∧ inWordOf r = none) ∧
    (∀ w, statusWordOf r = some w → cmdWordOf r = none ∧ ctrlWordOf r = none ∧ inWordOf r = none) ∧
    (∀ w, ctrlWordOf r = some w → cmdWordOf r = none ∧ statusWordOf r = none ∧ inWordOf r = none) ∧
    (∀ k w, inWordOf r = some (k, w) → cmdWordOf r = none ∧ statusWordOf r = none ∧ ctrlWordOf r = none) := by
  cases r with
  | command w => simp [cmdWordOf, statusWordOf, ctrlWordOf, inWordOf]
  | bus t =>
    refine ⟨?_, ?_, ?_, ?_⟩
    all_goals
      intros
      simp_all [cmdWordOf, statusWordOf, ctrlWordOf, inWordOf, offset_eq_iff]
    omega

/-- Everything a request can do to the engine, by the one register it reaches. -/
theorem hostEffect_cases (r : Request) (e : Engine) :
    (∃ w, cmdWordOf r = some w ∧ statusWordOf r = none ∧ ctrlWordOf r = none ∧ inWordOf r = none ∧
      hostEffect r e = e.cmdWrite w) ∨
    (∃ w, cmdWordOf r = none ∧ statusWordOf r = some w ∧ ctrlWordOf r = none ∧ inWordOf r = none ∧
      hostEffect r e = e.statusWrite w) ∨
    (∃ w, cmdWordOf r = none ∧ statusWordOf r = none ∧ ctrlWordOf r = some w ∧ inWordOf r = none ∧
      hostEffect r e = e.ctrlWrite w) ∨
    (∃ k w, cmdWordOf r = none ∧ statusWordOf r = none ∧ ctrlWordOf r = none ∧ inWordOf r = some (k, w) ∧
      hostEffect r e = e.inWrite k w) ∨
    (cmdWordOf r = none ∧ statusWordOf r = none ∧ ctrlWordOf r = none ∧ inWordOf r = none ∧ hostEffect r e = e) := by
  obtain ⟨hcmd, hstatus, hctrl, hin⟩ := oneTarget r
  unfold hostEffect
  cases hc : cmdWordOf r with
  | some w => obtain ⟨h1, h2, h3⟩ := hcmd w hc; exact .inl ⟨w, rfl, h1, h2, h3, rfl⟩
  | none =>
    cases hs : statusWordOf r with
    | some w => obtain ⟨-, h2, h3⟩ := hstatus w hs; exact .inr (.inl ⟨w, rfl, rfl, h2, h3, rfl⟩)
    | none =>
      cases ht : ctrlWordOf r with
      | some w => obtain ⟨-, -, h3⟩ := hctrl w ht; exact .inr (.inr (.inl ⟨w, rfl, rfl, rfl, h3, rfl⟩))
      | none =>
        cases hi : inWordOf r with
        | some p => exact .inr (.inr (.inr (.inl ⟨p.1, p.2, rfl, rfl, rfl, rfl, rfl⟩)))
        | none => exact .inr (.inr (.inr (.inr ⟨rfl, rfl, rfl, rfl, rfl⟩)))

/-- A command's meaning is the CMD write of its word (R92). -/
theorem decodeCommandWord_exec {w : Word} {i : Instr} (s : State) (h : decodeCommandWord w = .ok i) :
    exec i s = .next (s.replyWrite (s.eng.cmdWrite w)) := by
  by_cases hr : rsvdBits w = 0#27
  · obtain ⟨n, rfl⟩ := word_of_rsvd_zero hr
    have hall : ∀ n : Fin 32, ∀ i, decodeCommandWord (BitVec.ofNat 32 n.val) = .ok i →
        (i, BitVec.ofNat 32 n.val) ∈ [(Instr.fwd8Y, 0x4#32), (.inv8Y, 0x5#32), (.fwd4U, 0x8#32), (.inv4U, 0x9#32),
          (.fwd4V, 0x10#32), (.inv4V, 0x11#32)] := by
      intro n i hi
      fin_cases n
      all_goals
        simp [decodeCommandWord, decodeCommand, rsvdBits, opBits, planeBits, sizeField, planeField, opField, sizeBit,
          sizeFitsPlane, commandInstr] at hi ⊢
      all_goals simp_all
    have := hall n i h
    generalize BitVec.ofNat 32 n.val = w at this
    simp only [List.mem_cons, List.not_mem_nil, or_false, Prod.mk.injEq] at this
    rcases this with ⟨rfl, rfl⟩ | ⟨rfl, rfl⟩ | ⟨rfl, rfl⟩ | ⟨rfl, rfl⟩ | ⟨rfl, rfl⟩ | ⟨rfl, rfl⟩ <;> rfl
  · simp [decodeCommandWord, decodeCommand_of_rsvd hr] at h

/-- A command word runs as a CMD write, accepted or not (R181). -/
theorem runRequest_command (w : Word) (s : State) :
    runRequest (.command w) s = .next (s.replyWrite (s.eng.cmdWrite w)) := by
  unfold runRequest
  cases h : decode (.command w) with
  | ok i => exact decodeCommandWord_exec s h
  | error e => rfl

theorem runRequest_ok {r : Request} {i : Instr} (s : State) (h : decode r = .ok i) : runRequest r s = exec i s := by
  simp [runRequest, h]

theorem runRequest_error {r : Request} {e : DecodeError} (s : State) (h : decode r = .error e) :
    runRequest r s = .next (s.reject r) := by
  simp [runRequest, h]

theorem hostEffect_misaligned {t : Transaction} (e : Engine) (ha : t.off.toNat % 4 ≠ 0) :
    hostEffect (.bus t) e = e := by
  have h4 : t.off ≠ 0x004#12 := by intro h; rw [h] at ha; exact ha (by decide)
  have h8 : t.off ≠ 0x008#12 := by intro h; rw [h] at ha; exact ha (by decide)
  have hC : t.off ≠ 0x00C#12 := by intro h; rw [h] at ha; exact ha (by decide)
  simp [hostEffect, cmdWordOf, statusWordOf, ctrlWordOf, inWordOf, ha, h4, h8, hC]

/-- The register an aligned write reaches, by numbers (R172). -/
theorem hostEffect_write {t : Transaction} (e : Engine) (hk : t.kind = .write) (hs : t.size = 4)
    (ha : t.off.toNat % 4 = 0) :
    hostEffect (.bus t) e =
      if t.off.toNat = 0x004 then e.cmdWrite t.wdata
      else if t.off.toNat = 0x008 then e.statusWrite t.wdata
      else if t.off.toNat = 0x00C then e.ctrlWrite t.wdata
      else if 0x100 ≤ t.off.toNat ∧ t.off.toNat ≤ 0x1FF then e.inWrite (entryOf t.off) t.wdata
      else e := by
  have hr : (0x100 ≤ t.off.toNat ∧ t.off.toNat ≤ 0x1FC) ↔ (0x100 ≤ t.off.toNat ∧ t.off.toNat ≤ 0x1FF) := by omega
  simp only [hostEffect, cmdWordOf, statusWordOf, ctrlWordOf, inWordOf, hk, hs, ha, true_and,
    offset_eq_iff t.off 0x004 (by decide), offset_eq_iff t.off 0x008 (by decide),
    offset_eq_iff t.off 0x00C (by decide), hr, bufferIndex_eq_entryOf]
  split_ifs <;> simp_all

/-- Every request runs, and does to the engine what the register it reaches says. -/
theorem runRequest_spec (r : Request) (s : State) :
    ∃ t, runRequest r s = .next t ∧ t.inputs = s.inputs ∧ t.eng = hostEffect r s.eng := by
  cases r with
  | command w =>
    exact ⟨_, runRequest_command w s, rfl, rfl⟩
  | bus t =>
    have good : ∀ i, decodeTransaction t = .ok i → runRequest (.bus t) s = exec i s :=
      fun i h => runRequest_ok (r := .bus t) s h
    have bad : ∀ e, decodeTransaction t = .error e → hostEffect (.bus t) s.eng = s.eng →
        ∃ u, runRequest (.bus t) s = .next u ∧ u.inputs = s.inputs ∧ u.eng = hostEffect (.bus t) s.eng :=
      fun e h he => ⟨s.busError t.kind, runRequest_error (r := .bus t) s h, by simp, by simp [he]⟩
    by_cases hs : t.size = 4
    swap
    · exact bad _ (decodeTransaction_badSize hs) (by simp [hostEffect, cmdWordOf, statusWordOf, ctrlWordOf, inWordOf, hs])
    by_cases ha : t.off.toNat % 4 = 0
    swap
    · exact bad _ (decodeTransaction_misaligned hs ha) (hostEffect_misaligned s.eng ha)
    have hd := decodeTransaction_aligned hs ha
    cases hk : t.kind with
    | read =>
      have he : hostEffect (.bus t) s.eng = s.eng := by
        simp [hostEffect, cmdWordOf, statusWordOf, ctrlWordOf, inWordOf, hk]
      simp only [hk, decodeRead_eq] at hd
      split_ifs at hd <;> first
        | exact bad _ hd he
        | exact ⟨_, good _ hd, rfl, he.symm⟩
    | write =>
      have he := hostEffect_write s.eng hk hs ha
      simp only [hk, decodeWrite_eq] at hd
      split_ifs at hd <;> first
        | exact bad _ hd (by rw [he]; simp_all)
        | exact ⟨_, good _ hd, rfl, by rw [he]; simp_all⟩

/-! ### The step -/

/-- The head of the inputs is the one next event. -/
theorem nextIsRequest_iff {s : State} {r : Request} {rest : List Event} (h : s.inputs = .request r :: rest)
    (r' : Request) : s.NextIsRequest r' ↔ r' = r := by
  simp [State.NextIsRequest, h, eq_comm]

/-- A next request is no engine turn and no reset. -/
theorem not_engine_of_request {s : State} {r : Request} {rest : List Event} (h : s.inputs = .request r :: rest) :
    ¬ s.NextIsEngine ∧ ¬ s.NextIsReset := by
  simp [State.NextIsEngine, State.NextIsReset, h]

/-- An engine turn is no request and no reset. -/
theorem not_request_of_engine {s : State} (h : s.NextIsEngine) :
    (∀ r, ¬ s.NextIsRequest r) ∧ ¬ s.NextIsReset := by
  rcases h with h | ⟨rest, h⟩ <;> simp [State.NextIsRequest, State.NextIsReset, h]

/-- A reset is no request and no engine turn. -/
theorem not_request_of_reset {s : State} (h : s.NextIsReset) :
    (∀ r, ¬ s.NextIsRequest r) ∧ ¬ s.NextIsEngine := by
  obtain ⟨rest, h⟩ := h
  simp [State.NextIsRequest, State.NextIsEngine, h]

/-- Everything one step can do. -/
theorem step_cases {s t : State} (h : step s = .next t) :
    (∃ rest, s.inputs = .reset :: rest ∧ t = State.resetEvent { s with inputs := rest }) ∨
    (s.NextIsEngine ∧ s.eng.engState = .idle ∧ t = { s with inputs := s.inputs.tail }) ∨
    (s.NextIsEngine ∧ s.eng.engState = .busy ∧
      ∃ f, s.eng.complete = some f ∧ t = { s with inputs := s.inputs.tail, eng := f }) ∨
    (∃ r rest, s.inputs = .request r :: rest ∧ t.inputs = rest ∧ t.eng = hostEffect r s.eng) := by
  have turn : ∀ u v : State, engineTurn u = .next v →
      (u.eng.engState = .idle ∧ v = u) ∨
      (u.eng.engState = .busy ∧ ∃ f, u.eng.complete = some f ∧ v = { u with eng := f }) := by
    intro u v hv
    unfold engineTurn at hv
    cases hb : u.eng.engState with
    | idle => simp [Engine.busy, hb] at hv; exact .inl ⟨rfl, hv.symm⟩
    | busy =>
      simp only [Engine.busy, hb, beq_self_eq_true, if_true] at hv
      unfold completionStep at hv
      cases hc : u.eng.complete with
      | none => simp [hc] at hv
      | some f => simp [hc] at hv; exact .inr ⟨rfl, f, rfl, hv.symm⟩
  unfold step at h
  split at h
  · next hi =>
    rcases turn _ _ h with ⟨hb, rfl⟩ | ⟨hb, f, hf, rfl⟩
    · exact .inr (.inl ⟨.inl hi, hb, by simp [hi]; cases t; simp_all⟩)
    · exact .inr (.inr (.inl ⟨.inl hi, hb, f, hf, by simp [hi]⟩))
  · next r rest hi =>
    obtain ⟨u, hu, hin, heng⟩ := runRequest_spec r { s with inputs := rest }
    rw [hu] at h
    injection h with h
    subst h
    exact .inr (.inr (.inr ⟨r, rest, hi, hin, heng⟩))
  · next rest hi =>
    rcases turn _ _ h with ⟨hb, rfl⟩ | ⟨hb, f, hf, rfl⟩
    · exact .inr (.inl ⟨.inr ⟨rest, hi⟩, hb, by simp [hi]⟩)
    · exact .inr (.inr (.inl ⟨.inr ⟨rest, hi⟩, hb, f, hf, by simp [hi]⟩))
  · next rest hi =>
    injection h with h
    exact .inl ⟨rest, hi, h.symm⟩

end Sys2Proof.Machine
end

