-- ==== Sys2Proof/Laws/PerInstr.lean ====
section
/-! SUPPORT. Facts about every instruction as syntax, one lemma per constructor. -/

namespace Sys2Proof.Laws

/-- The request of an instruction passes the checks of the spec's tables: size, alignment and mapping for a transaction
(R170), the table of R84 for a command word. -/
def EncodesWellFormed.Statement (i : Instr) : Prop := (encode i).wellFormed = true

/-- A transaction that reads or writes an entry of IN or OUT passes the bus checks. -/
theorem bufferOffset_wellFormed (kind : Access) (off : Offset) (w : Word) (h4 : off.toNat % 4 = 0)
    (h : (0x100 ≤ off.toNat ∧ off.toNat ≤ 0x1FF) ∨ (0x200 ≤ off.toNat ∧ off.toNat ≤ 0x2FF)) :
    (Request.bus { kind := kind, off := off, size := 4, wdata := w }).wellFormed = true := by
  rcases h with ⟨h1, h2⟩ | ⟨h1, h2⟩ <;>
    simp [Request.wellFormed, Transaction.sizeOk, Transaction.aligned, Transaction.mapped, addressMap, Region.holds, h4,
      h1, h2]

/-- The write data play no part in the checks. -/
theorem wellFormed_of_zero (off : Offset) (w : Word)
    (h : (Request.bus { kind := .write, off := off, size := 4, wdata := 0#32 }).wellFormed = true) :
    (Request.bus { kind := .write, off := off, size := 4, wdata := w }).wellFormed = true := h

theorem inOffset_wellFormed (kind : Access) (k : Fin 64) (w : Word) :
    (Request.bus { kind := kind, off := inOffset k, size := 4, wdata := w }).wellFormed = true :=
  bufferOffset_wellFormed kind _ w (by rw [inOffset_toNat]; omega) (.inl (by rw [inOffset_toNat]; omega))

theorem outOffset_wellFormed (kind : Access) (k : Fin 64) (w : Word) :
    (Request.bus { kind := kind, off := outOffset k, size := 4, wdata := w }).wellFormed = true :=
  bufferOffset_wellFormed kind _ w (by rw [outOffset_toNat]; omega) (.inr (by rw [outOffset_toNat]; omega))

theorem EncodesWellFormed.fwd8Y : EncodesWellFormed.Statement .fwd8Y := by
  unfold EncodesWellFormed.Statement; decide

theorem EncodesWellFormed.inv8Y : EncodesWellFormed.Statement .inv8Y := by
  unfold EncodesWellFormed.Statement; decide

theorem EncodesWellFormed.fwd4U : EncodesWellFormed.Statement .fwd4U := by
  unfold EncodesWellFormed.Statement; decide

theorem EncodesWellFormed.inv4U : EncodesWellFormed.Statement .inv4U := by
  unfold EncodesWellFormed.Statement; decide

theorem EncodesWellFormed.fwd4V : EncodesWellFormed.Statement .fwd4V := by
  unfold EncodesWellFormed.Statement; decide

theorem EncodesWellFormed.inv4V : EncodesWellFormed.Statement .inv4V := by
  unfold EncodesWellFormed.Statement; decide

theorem EncodesWellFormed.rdId : EncodesWellFormed.Statement .rdId := by
  unfold EncodesWellFormed.Statement; decide

theorem EncodesWellFormed.rdCmd : EncodesWellFormed.Statement .rdCmd := by
  unfold EncodesWellFormed.Statement; decide

theorem EncodesWellFormed.rdStatus : EncodesWellFormed.Statement .rdStatus := by
  unfold EncodesWellFormed.Statement; decide

theorem EncodesWellFormed.rdCtrl : EncodesWellFormed.Statement .rdCtrl := by
  unfold EncodesWellFormed.Statement; decide

theorem EncodesWellFormed.rdLastcmd : EncodesWellFormed.Statement .rdLastcmd := by
  unfold EncodesWellFormed.Statement; decide

theorem EncodesWellFormed.rdIn (k : Fin 64) : EncodesWellFormed.Statement (.rdIn k) :=
  inOffset_wellFormed .read k 0#32

theorem EncodesWellFormed.rdOut (k : Fin 64) : EncodesWellFormed.Statement (.rdOut k) :=
  outOffset_wellFormed .read k 0#32

theorem EncodesWellFormed.wrCmd (w : Word) : EncodesWellFormed.Statement (.wrCmd w) := wellFormed_of_zero _ w (by decide)

theorem EncodesWellFormed.wrStatus (w : Word) : EncodesWellFormed.Statement (.wrStatus w) := wellFormed_of_zero _ w (by decide)

theorem EncodesWellFormed.wrCtrl (w : Word) : EncodesWellFormed.Statement (.wrCtrl w) := wellFormed_of_zero _ w (by decide)

theorem EncodesWellFormed.wrIn (k : Fin 64) (w : Word) : EncodesWellFormed.Statement (.wrIn k w) :=
  inOffset_wellFormed .write k w

theorem EncodesWellFormed.wrId (w : Word) : EncodesWellFormed.Statement (.wrId w) := wellFormed_of_zero _ w (by decide)

theorem EncodesWellFormed.wrLastcmd (w : Word) : EncodesWellFormed.Statement (.wrLastcmd w) := wellFormed_of_zero _ w (by decide)

theorem EncodesWellFormed.wrOut (k : Fin 64) (w : Word) : EncodesWellFormed.Statement (.wrOut k w) :=
  outOffset_wellFormed .write k w

end Sys2Proof.Laws
end

