-- ==== Sys2Proof/Tests/Slice0.lean ====
section
/-! SUPPORT. Tests, each of one step or of one decoding, and a witness for the hypotheses of each obligation. The
expected values are the spec's: A, B, F4, F8, I4, I8 and P name the vectors of spec/95_test_vectors.md; the words of the
decode tests are written out bit by bit from R63, R80 to R84 and R89. -/

namespace Sys2Proof.Tests

open Sys2Proof Sys2Proof.Machine

/-! ### Helpers -/

/-- The state after one step. -/
def nextOf (s : State) : Option State :=
  match step s with
  | .next t => some t
  | .fault _ => none
  | .refused _ => none

/-- The state after the step that runs one request. -/
def after (s : State) (r : Request) : Option State := nextOf (s.withRequest r)

/-- The response to one request. -/
def reply (s : State) (r : Request) : Option Response := (after s r).bind fun t => t.response

/-- The engine after one request. -/
def engAfter (s : State) (r : Request) : Option Engine := (after s r).map fun t => t.eng

/-- The word that STATUS reads as after one request. -/
def statusAfter (s : State) (r : Request) : Option Word := (engAfter s r).map fun e => e.statusWord

/-- A transaction of any size. -/
def bus (kind : Access) (off : Offset) (size : Nat) (w : Word) : Request :=
  .bus { kind := kind, off := off, size := size, wdata := w }

/-- The reset state with an engine. -/
def withEng (e : Engine) : State := { State.reset with eng := e }

/-- The reset engine, BUSY with a command. -/
def busyEng (c : CmdCode) : Engine :=
  { Engine.reset with engState := .busy, curCmd := c, lastCmd := c }

/-- The reset engine with one entry of IN. -/
def engIn (k : Fin 64) (v : Int) : Engine := Engine.reset.setIn k (BitVec.ofInt 16 v)

/-- The reset engine with every entry of IN the same. -/
def engInAll (v : Int) : Engine := { Engine.reset with inBuf := Vector.replicate 64 (BitVec.ofInt 16 v) }

/-- The state with one next event. -/
def withEvent (s : State) (v : Event) : State := { s with inputs := [v] }

/-! ### WellFormed -/

theorem test_wf_accepts : (readAt 0x2FC#12).wellFormed = true ∧ (Request.command 0x11#32).wellFormed = true := by decide

theorem test_wf_refuses_size : (bus .write 0x100#12 2 0#32).wellFormed = false := by decide

theorem test_wf_refuses_alignment : (writeAt 0x102#12 1#32).wellFormed = false := by decide

theorem test_wf_refuses_reserved_offset :
    (readAt 0x014#12).wellFormed = false ∧ (writeAt 0x300#12 0#32).wellFormed = false := by decide

theorem test_wf_refuses_command_words :
    (Request.command 0x0C#32).wellFormed = false ∧ (Request.command 0x02#32).wellFormed = false := by decide

theorem test_accepted_refuses_read_only :
    (Transaction.accepted ⟨.write, 0x200#12, 4, 5#32⟩) = false ∧
    (Transaction.accepted ⟨.read, 0x200#12, 4, 5#32⟩) = true := by decide

/-! ### Decode -/

theorem test_decode_fwd8Y :
    decode (.command 0b00000000000000000000000000000100#32) = .ok .fwd8Y ∧ decodeTableWord 32 0b00100 = some .fwd8Y := by
  decide

theorem test_decode_inv8Y : decode (.command 0b00000000000000000000000000000101#32) = .ok .inv8Y := by decide

theorem test_decode_fwd4U : decode (.command 0b00000000000000000000000000001000#32) = .ok .fwd4U := by decide

theorem test_decode_inv4U : decode (.command 0b00000000000000000000000000001001#32) = .ok .inv4U := by decide

theorem test_decode_fwd4V : decode (.command 0b00000000000000000000000000010000#32) = .ok .fwd4V := by decide

theorem test_decode_inv4V : decode (.command 0b00000000000000000000000000010001#32) = .ok .inv4V := by decide

theorem test_decode_rdId : decodeTableWord 16 0b0000000000000 = some .rdId := by decide

theorem test_decode_rdCmd : decodeTableWord 16 0b0000000000100 = some .rdCmd := by decide

theorem test_decode_rdStatus : decodeTableWord 16 0b0000000001000 = some .rdStatus := by decide

theorem test_decode_rdCtrl : decodeTableWord 16 0b0000000001100 = some .rdCtrl := by decide

theorem test_decode_rdLastcmd : decodeTableWord 16 0b0000000010000 = some .rdLastcmd := by decide

theorem test_decode_rdIn : decodeTableWord 16 0b0000100000100 = some (.rdIn 1) := by decide

theorem test_decode_rdOut : decodeTableWord 16 0b0001011111100 = some (.rdOut 63) := by decide

theorem test_decode_wrCmd : decode (writeAt 0b000000000100#12 7#32) = .ok (.wrCmd 7#32) := by decide

theorem test_decode_wrStatus : decode (writeAt 0b000000001000#12 6#32) = .ok (.wrStatus 6#32) := by decide

theorem test_decode_wrCtrl : decode (writeAt 0b000000001100#12 1#32) = .ok (.wrCtrl 1#32) := by decide

theorem test_decode_wrIn : decode (writeAt 0b000110101000#12 9#32) = .ok (.wrIn 42 9#32) := by decide

theorem test_decode_wrId : decodeTableWord 16 0b1000000000000 = some (.wrId 0#32) := by decide

theorem test_decode_wrLastcmd : decodeTableWord 16 0b1000000010000 = some (.wrLastcmd 0#32) := by decide

theorem test_decode_wrOut : decode (writeAt 0b001000000000#12 5#32) = .ok (.wrOut 0 5#32) := by decide

/-- A13, A14, A15, B8, B5: what is refused, by name. -/
theorem test_decode_refuses :
    decode (readAt 0xFFC#12) = .error .reservedOffset ∧ decode (bus .read 0x008#12 1 0#32) = .error .badSize ∧
    decode (writeAt 0x102#12 1#32) = .error .misaligned ∧ decode (.command 2#32) = .error .illegalCommand ∧
    decode (.command 0x0C#32) = .error .sizeMismatch := by decide

/-! ### Arithmetic (section 2.1 of the vectors) -/

theorem test_round2 :
    round2 3 1 = 2 ∧ round2 (-3) 1 = -1 ∧ round2 (-1) 1 = 0 ∧ round2 1 1 = 1 ∧ round2 5 2 = 1 ∧ round2 (-5) 2 = -1 ∧
    round2 (-2) 2 = 0 := by decide

theorem test_clip3_halfBtf : clip3 (-32768) 32767 40000 = 32767 ∧ halfBtf 2896 64 2896 0 12 = 45 := by decide

/-! ### Commands: issue (B1 to B4), and the completion -/

/-- B1. -/
theorem test_fwd8Y_issues : statusAfter State.reset (.command 4#32) = some 0x00000001#32 := by decide

/-- F8-5, A18: −16321 at entry 0, and 0 at entry 63. -/
theorem test_fwd8Y_completes :
    (engInAll (-255)).completeFwd8.outBuf[0] = 0xFFFFC03F#32 ∧ (engInAll (-255)).completeFwd8.outBuf[63] = 0#32 ∧
    (engInAll (-255)).completeFwd8.statusWord = 0x00000002#32 := by decide +kernel

/-- B2. -/
theorem test_inv8Y_issues : (engAfter State.reset (.command 5#32)).map (fun e => e.lastCmd) = some 5#5 := by decide

/-- I8-2, A19. -/
theorem test_inv8Y_completes :
    (engIn 0 64).completeInv8.outBuf[63] = 1#32 ∧ (engIn 0 64).completeInv8.statusWord = 0x00000002#32 := by
  decide +kernel

/-- B3. -/
theorem test_fwd4U_issues : (engAfter State.reset (.command 8#32)).map (fun e => e.curCmd) = some 8#5 := by decide

/-- F4-8 (row 1) and P6's DOMAIN. -/
theorem test_fwd4U_completes :
    (List.range 8).map (fun k => (engIn 0 100).completeFwd4.outInt k) = [200, 261, 200, 108, 262, 342, 262, 142] ∧
    (engIn 0 256).completeFwd4.statusWord = 0x00000202#32 := by decide +kernel

/-- B4. -/
theorem test_inv4U_issues : statusAfter State.reset (.command 9#32) = some 0x00000001#32 := by decide

/-- I4-8 (horizontal frequency 1), and I4-12's RANGE. -/
theorem test_inv4U_completes :
    (List.range 8).map (fun k => (engIn 1 64).completeInv4.outInt k) = [3, 1, -1, -3, 3, 1, -1, -3] ∧
    (engInAll 32767).completeInv4.outInt 1 = -3015 ∧
    (engInAll 32767).completeInv4.statusWord = 0x00000102#32 := by decide +kernel

/-- B3. -/
theorem test_fwd4V_issues : (engAfter State.reset (.command 16#32)).map (fun e => e.lastCmd) = some 16#5 := by decide

/-- B4, A20. -/
theorem test_inv4V_issues : (engAfter State.reset (.command 17#32)).map (fun e => e.lastCmd) = some 17#5 := by decide

/-- P4, step 6: the completion step of a BUSY engine runs the command of CUR_CMD. -/
theorem test_completion_step :
    (nextOf (withEng { busyEng 8#5 with inBuf := Vector.replicate 64 1#16 })).map
      (fun t => (t.eng.engState, t.eng.done, t.eng.outInt 0, t.eng.outInt 1)) = some (.idle, true, 31, 0) := by
  decide +kernel

/-- I8-9: a vertical frequency varies down the rows. -/
theorem test_inverse_layout :
    [0, 7, 16, 24, 32, 40, 56].map (fun k => (engIn 8 64).completeInv8.outInt k) = [1, 1, 1, 0, 0, -1, -1] := by
  decide +kernel

/-- F8-7: a horizontal gradient has its energy along row 0. -/
theorem test_forward_layout :
    [0, 1, 2, 3, 5, 6, 7, 8].map (fun k => forward8 (fun j => 10 * ((j % 8 : Nat) : Int) - 35) k) =
      [1, -1458, -1, -153, -45, 1, -11, 0] := by decide +kernel

/-! ### Register accesses -/

/-- A1. -/
theorem test_rdId : reply State.reset (readAt 0x000#12) = some (.readOk 0x44435401#32) := by decide

/-- R174's example. -/
theorem test_rdCmd : reply (withEng (busyEng 4#5)) (readAt 0x004#12) = some (.readOk 0#32) := by decide

/-- R175's example. -/
theorem test_rdStatus : reply (withEng (busyEng 4#5)) (readAt 0x008#12) = some (.readOk 0x00000001#32) := by decide

/-- A10. -/
theorem test_wrCtrl_rdCtrl :
    ((after State.reset (writeAt 0x00C#12 0xFFFFFFFF#32)).bind fun t => reply t (readAt 0x00C#12)) =
      some (.readOk 0x00000001#32) := by decide

/-- A20. -/
theorem test_rdLastcmd : reply (withEng (busyEng 17#5)) (readAt 0x010#12) = some (.readOk 0x00000011#32) := by decide

/-- A3. -/
theorem test_wrIn_rdIn :
    ((after State.reset (writeAt 0x100#12 (BitVec.ofInt 32 (-255)))).bind fun t => reply t (readAt 0x100#12)) =
      some (.readOk 0xFFFFFF01#32) := by decide

/-- A6. -/
theorem test_wrIn_takes_low_half :
    (engAfter State.reset (writeAt 0x104#12 0x00008000#32)).map (fun e => e.inInt 1) = some (-32768) := by decide

/-- A16. -/
theorem test_wrIn_busy :
    statusAfter (withEng (busyEng 4#5)) (writeAt 0x100#12 100#32) = some 0x00000035#32 := by decide

/-- P5, step 5. -/
theorem test_rdOut :
    reply (withEng (engInAll 32767).completeInv4) (readAt 0x204#12) = some (.readOk 0xFFFFF439#32) := by decide +kernel

/-- B5 and B11. -/
theorem test_wrCmd_rejects :
    statusAfter State.reset (writeAt 0x004#12 0x0C#32) = some 0x00000024#32 ∧
    statusAfter State.reset (writeAt 0x004#12 0x20#32) = some 0x00000014#32 := by decide

/-- A17: the first error is kept. -/
theorem test_wrCmd_busy :
    statusAfter (withEng ((busyEng 8#5).setError .busyWrite)) (writeAt 0x004#12 9#32) = some 0x00000035#32 := by decide

/-- A7. -/
theorem test_wrStatus :
    statusAfter
      (withEng { Engine.reset with done := true, err := true, errcode := 2#4, range := true, domain := true })
      (writeAt 0x008#12 4#32) = some 0x00000302#32 := by decide

/-- A9. -/
theorem test_wrStatus_busy :
    statusAfter (withEng { busyEng 4#5 with range := true, domain := true }) (writeAt 0x008#12 0xFFFFFFFF#32) =
      some 0x00000001#32 := by decide

/-- A12. -/
theorem test_wrId : reply State.reset (writeAt 0x000#12 0#32) = some .writeError := by decide

/-- A12. -/
theorem test_wrLastcmd : reply State.reset (writeAt 0x010#12 0#32) = some .writeError := by decide

/-- A11. -/
theorem test_wrOut :
    (after State.reset (writeAt 0x200#12 5#32)).map (fun t => (t.response, decide (t.eng = Engine.reset))) =
      some (some .writeError, true) := by decide

/-- P3, steps 2 and 3: a rejected command raises irq. -/
theorem test_irq :
    (engAfter (withEng { Engine.reset with irqEn := true }) (.command 0x0C#32)).map (fun e => e.irq) = some true := by
  decide

/-- A table word is what the very next step runs. -/
theorem test_withFetchWord :
    (nextOf (State.reset.withFetchWord 32 0x11)).map (fun t => t.eng.curCmd) = some 17#5 ∧
    (nextOf (State.reset.withFetchWord 16 0x1100)).map (fun t => t.response) = some (some .writeOk) := by decide

/-! ### The host's notation -/

/-- R91, R92: the examples of the notation. -/
theorem test_notation :
    wrRequest (.inEntry 0) (-255) = writeAt 0x100#12 0xFFFFFF01#32 ∧
    ldblk [0, 1, 2] = [writeAt 0x100#12 0#32, writeAt 0x104#12 1#32, writeAt 0x108#12 2#32] ∧
    stblk 1 = [readAt 0x200#12, readAt 0x204#12] ∧ clr 0x306 = writeAt 0x008#12 0x306#32 ∧
    commandRequest .inv .n4 .v = writeAt 0x004#12 0x11#32 ∧ waitEnds 2#32 = true ∧ waitEnds 1#32 = false := by decide

theorem test_disassemble :
    disassemble 0x04#32 = "fwd8 y" ∧ disassemble 0x0C#32 = ".cmd 0x0000000C ; size-mismatch" ∧
    disassemble 0xFFFFFFFF#32 = ".cmd 0xFFFFFFFF ; illegal" := by decide

/-! ### Witnesses: a state and operands that meet each obligation's hypotheses -/

theorem witness_ResetEventRestoresTheResetState :
    ∃ (s : State) (rest : List Event), s.inputs = .reset :: rest ∧ s.eng.engState = .busy :=
  ⟨{ withEng (busyEng 4#5) with inputs := [.reset] }, [], rfl, rfl⟩

theorem witness_IllegalWordsAreRejected :
    ([0x00000002#32, 0x00000003#32, 0x00000018#32, 0x00000020#32, 0xFFFFFFFF#32].all fun w =>
      decodeCommand w == .illegal) = true ∧
    ∀ w : Word, (withEvent State.reset (.request (writeAt 0x004#12 w))).eng.engState = .idle ∧
      (withEvent State.reset (.request (writeAt 0x004#12 w))).inputs = .request (writeAt 0x004#12 w) :: [] :=
  ⟨by decide, fun _ => ⟨rfl, rfl⟩⟩

theorem witness_MismatchingWordsAreRejected :
    ([0x00000000#32, 0x00000001#32, 0x0000000C#32, 0x0000000D#32, 0x00000014#32, 0x00000015#32].all fun w =>
      decodeCommand w == .mismatch) = true ∧
    ∀ w : Word, (withEvent State.reset (.request (writeAt 0x004#12 w))).eng.engState = .idle ∧
      (withEvent State.reset (.request (writeAt 0x004#12 w))).inputs = .request (writeAt 0x004#12 w) :: [] :=
  ⟨by decide, fun _ => ⟨rfl, rfl⟩⟩

theorem witness_EncodeOfDecodeIsTheRequest :
    decode (.command 0x10#32) = .ok .fwd4V ∧ decode (bus .read 0x100#12 4 7#32) = .ok (.rdIn 0) ∧
    decode (bus .write 0x1FC#12 4 7#32) = .ok (.wrIn 63 7#32) := by decide

theorem witness_StepRunsTheDecodedInstruction :
    (withEvent State.reset (.request (readAt 0x010#12))).inputs = .request (readAt 0x010#12) :: [] ∧
    decode (readAt 0x010#12) = .ok .rdLastcmd ∧ decodeTableWord 48 0x00051008 = some (.wrStatus 5#32) := by decide

theorem witness_BusTransactionsFollowTheDispatch :
    ∃ (s : State) (t : Transaction) (rest : List Event), s.inputs = .request (.bus t) :: rest :=
  ⟨withEvent State.reset (.request (writeAt 0x1FC#12 5#32)), _, [], rfl⟩

/-- The offsets where the clauses of the obligation meet, each as a read and as a write: which of them err. -/
theorem witness_BusErrorChangesNoEngineState :
    ([0x000, 0x010, 0x014, 0x0FC, 0x100, 0x1FC, 0x200, 0x2FC, 0x300, 0xFFC].map fun off =>
      (((reply State.reset (readAt (BitVec.ofNat 12 off))).map Response.isError),
        ((reply State.reset (writeAt (BitVec.ofNat 12 off) 0#32)).map Response.isError))) =
      [(some false, some true), (some false, some true), (some true, some true), (some true, some true),
        (some false, some false), (some false, some false), (some false, some true), (some false, some true),
        (some true, some true), (some true, some true)] ∧
    (reply State.reset (readAt 0x013#12)).map Response.isError = some true ∧
    (reply State.reset (bus .read 0x000#12 8 0#32)).map Response.isError = some true := by decide

theorem witness_CompletionStepIsEnabledExactlyWhileBusy :
    State.reset.NextIsEngine ∧ State.reset.eng.engState = .idle ∧
    (withEvent (withEng (busyEng 8#5)) .completion).NextIsEngine ∧
    (withEvent (withEng (busyEng 8#5)) .completion).eng.engState = .busy ∧
    legalCode (withEvent (withEng (busyEng 8#5)) .completion).eng.curCmd = true :=
  ⟨.inl rfl, rfl, .inr ⟨[], rfl⟩, rfl, by decide⟩

theorem witness_CmdWriteIssuesOrRejects :
    (withEng (busyEng 8#5)).eng.engState = .busy ∧ State.reset.eng.engState = .idle ∧
    decodeCommand 0x20#32 = .illegal ∧ decodeCommand 0x00#32 = .mismatch ∧ 0x11#32 ∈ legalCommandWords := by decide

/-- An IDLE and a BUSY state, for CommandsIssueWhenIdle, CommandsAreDroppedWhileBusy, the four transform statements and
InReadsBackSignExtended. -/
theorem witness_idle_and_busy :
    State.reset.eng.engState = .idle ∧ (withEng (busyEng 17#5)).eng.engState = .busy := by decide

theorem witness_CompletionDependsOnCommandAndInputAlone :
    ∃ e e' f : Engine, e.complete = some f ∧ e.curCmd = e'.curCmd ∧ e.inBuf = e'.inBuf ∧ e ≠ e' :=
  ⟨busyEng 4#5, { busyEng 4#5 with range := true }, (busyEng 4#5).completeFwd8, rfl, rfl, rfl, by decide⟩

theorem witness_FourByFourIgnoresTheUpperInput :
    ∃ e e' : Engine, (∀ k : Fin 64, k.val < 16 → e.inBuf[k] = e'.inBuf[k]) ∧ e.range = e'.range ∧
      e.domain = e'.domain ∧ e.inBuf ≠ e'.inBuf :=
  ⟨Engine.reset, engIn 16 32767, by decide, rfl, rfl, by decide⟩

theorem witness_ReadsHaveNoSideEffects :
    ∃ (s : State) (t : Transaction) (rest : List Event), t.kind = .read ∧ t.accepted = true ∧
      s.inputs = .request (.bus t) :: .request (.bus t) :: rest :=
  ⟨{ State.reset with inputs := [.request (readAt 0x2FC#12), .request (readAt 0x2FC#12)] },
    ⟨.read, 0x2FC#12, 4, 0#32⟩, [], rfl, by decide, rfl⟩

theorem witness_InWriteStoresOrIsDropped :
    State.reset.eng.engState = .idle ∧ (withEng (busyEng 4#5)).eng.engState = .busy ∧ (0 : Fin 64) ≠ 63 := by decide

/-- A step that changes OUT, raises DONE, DOMAIN and irq, and lowers BUSY: the completion of a forward command. -/
theorem witness_completion_step :
    ∃ s t : State, step s = .next t ∧ s.CompletesNext ∧ t.eng.outBuf ≠ s.eng.outBuf ∧ s.eng.domain = false ∧
      t.eng.domain = true ∧ s.eng.irq = false ∧ t.eng.irq = true :=
  ⟨withEng { busyEng 8#5 with inBuf := (engIn 0 256).inBuf, irqEn := true }, _, rfl, ⟨rfl, .inl rfl⟩,
    by decide +kernel, rfl, by decide +kernel, rfl, by decide +kernel⟩

/-- A completion that raises RANGE: I4-12. -/
theorem witness_range_rises :
    ∃ s t : State, step s = .next t ∧ s.eng.range = false ∧ t.eng.range = true :=
  ⟨withEng { busyEng 9#5 with inBuf := (engInAll 32767).inBuf }, _, rfl, rfl, by decide +kernel⟩

/-- A step that issues: it raises BUSY, lowers DONE and irq, and changes CUR_CMD and LASTCMD. -/
theorem witness_issue_step :
    ∃ s t : State, step s = .next t ∧ s.IssuesNext ∧ s.eng.irq = true ∧ t.eng.irq = false ∧
      t.eng.lastCmd ≠ s.eng.lastCmd :=
  ⟨{ withEng { Engine.reset with done := true, irqEn := true } with inputs := [.request (.command 4#32)] }, _, rfl,
    ⟨rfl, .command 4#32, ⟨[], rfl⟩, 4#32, rfl, by decide⟩, rfl, rfl, by decide⟩

/-- A write of IN while IDLE that changes the entry, and no other event. -/
theorem witness_InChangesOnlyByWritesWhileIdle :
    ∃ s t : State, step s = .next t ∧ t.eng.inBuf[(63 : Fin 64)] ≠ s.eng.inBuf[(63 : Fin 64)] :=
  ⟨withEvent State.reset (.request (writeAt 0x1FC#12 5#32)), _, rfl, by decide⟩

/-- A STATUS write that clears every flag, and a reset that does. -/
theorem witness_flags_fall :
    ∃ e : Engine, e.done = true ∧ e.err = true ∧ e.range = true ∧ e.domain = true ∧ e.irq = true ∧
      (∀ v ∈ [Event.request (writeAt 0x008#12 0x306#32), .reset],
        (nextOf (withEvent (withEng e) v)).map (fun t => t.eng.statusWord) = some 0#32 ∧
        (nextOf (withEvent (withEng e) v)).map (fun t => t.eng.irq) = some false) ∧
      (withEvent (withEng e) (.request (writeAt 0x008#12 0x306#32))).NextIsRequest (writeAt 0x008#12 0x306#32) ∧
      statusWordOf (writeAt 0x008#12 0x306#32) = some 0x306#32 ∧ (withEvent (withEng e) .reset).NextIsReset :=
  ⟨{ Engine.reset with done := true, err := true, errcode := 3#4, range := true, domain := true, irqEn := true },
    rfl, rfl, rfl, rfl, rfl, by decide, ⟨[], rfl⟩, by decide, ⟨[], rfl⟩⟩

/-- A step at which nothing touches DONE or a raised ERR: a read. -/
theorem witness_flags_kept :
    ∃ s t : State, step s = .next t ∧ ¬ s.CompletesNext ∧ ¬ s.NextIsReset ∧ s.eng.err = true ∧
      statusWordOf (readAt 0x008#12) = none ∧ cmdWordOf (readAt 0x008#12) = none ∧ s.NextIsRequest (readAt 0x008#12) :=
  ⟨withEvent (withEng { Engine.reset with err := true, errcode := 1#4 }) (.request (readAt 0x008#12)), _, rfl,
    fun h => (not_engine_of_request rfl).1 h.2, (not_engine_of_request rfl).2, rfl, by decide, by decide, ⟨[], rfl⟩⟩

/-- Steps that set ERR, on an IDLE and on a BUSY engine. -/
theorem witness_ErrorsArePrecise :
    (∃ s t : State, step s = .next t ∧ s.eng.err = false ∧ t.eng.err = true ∧ s.eng.engState = .idle) ∧
    (∃ s t : State, step s = .next t ∧ s.eng.err = false ∧ t.eng.err = true ∧ s.eng.engState = .busy) :=
  ⟨⟨withEvent State.reset (.request (.command 2#32)), _, rfl, rfl, rfl, rfl⟩,
    ⟨withEvent (withEng (busyEng 4#5)) (.request (writeAt 0x100#12 1#32)), _, rfl, rfl, rfl, rfl⟩⟩

/-- CTRL writes that raise and lower irq. -/
theorem witness_ctrl_changes :
    (∃ s t : State, step s = .next t ∧ s.eng.irq = false ∧ t.eng.irq = true ∧ t.eng.irqEn ≠ s.eng.irqEn) ∧
    (∃ s t : State, step s = .next t ∧ s.eng.irq = true ∧ t.eng.irq = false) :=
  ⟨⟨withEvent (withEng { Engine.reset with done := true }) (.request (writeAt 0x00C#12 1#32)), _, rfl, rfl, rfl,
      by decide⟩,
    ⟨withEvent (withEng { Engine.reset with done := true, irqEn := true }) (.request (writeAt 0x00C#12 0#32)), _, rfl,
      rfl, rfl⟩⟩

theorem witness_RoundingAndClippingPrimitives :
    (-32768 : Int) ≤ 32767 ∧ (-32769 : Int) < -32768 ∧ (32767 : Int) < 32768 ∧ (-32768 : Int) ≤ -32768 ∧
    (32767 : Int) ≤ 32767 := by decide

/-- AC indexes at both ends, at both sizes. -/
theorem witness_ForwardTransformLaws : 0 < 1 ∧ 0 < 63 ∧ 63 < 64 ∧ 0 < 15 ∧ 15 < 16 := by decide

theorem witness_InverseOfDcOnlyIsConstant :
    ∀ d ∈ [(-32768 : Int), 0, 32767], ∃ c : Nat → Int, -32768 ≤ d ∧ d ≤ 32767 ∧ c 0 = d ∧ ∀ k, k ≠ 0 → c k = 0 := by
  intro d hd
  refine ⟨fun k => if k = 0 then d else 0, ?_, ?_, by simp, fun k hk => by simp [hk]⟩ <;>
    · simp at hd
      omega

/-- Blocks at the ends of the ranges. -/
theorem witness_ForwardOutputsAreBounded :
    (∃ x : Nat → Int, (∀ k, k < 64 → -32768 ≤ x k ∧ x k ≤ 32767) ∧ x 0 = -32768 ∧ x 15 = 32767) ∧
    (∃ x : Nat → Int, (∀ k, k < 64 → -255 ≤ x k ∧ x k ≤ 255) ∧ x 0 = -255 ∧ x 15 = 255) :=
  ⟨⟨fun k => if k = 0 then -32768 else 32767, by intro k _; dsimp only; split_ifs <;> omega, rfl, rfl⟩,
    ⟨fun k => if k = 0 then -255 else 255, by intro k _; dsimp only; split_ifs <;> omega, rfl, rfl⟩⟩

/-- An address at each end of the window, and just outside it. -/
theorem witness_WindowAddressesGiveTheirOffset :
    0x1000 % 4096 = 0 ∧ (Transaction.atAddress 0x1000 0x1000 .read 4 0#32).map (fun t => t.off) = some 0x000#12 ∧
    (Transaction.atAddress 0x1000 0x1FFF .read 4 0#32).map (fun t => t.off) = some 0xFFF#12 ∧
    Transaction.atAddress 0x1000 0x0FFF .read 4 0#32 = none ∧
    Transaction.atAddress 0x1000 0x2000 .read 4 0#32 = none := by decide

/-- For EveryStepKeepsTheInvariant and NoRunStops: a BUSY state that meets the invariant, and its step. -/
theorem witness_EveryStepKeepsTheInvariant :
    ∃ s t : State, s.Inv ∧ s.eng.engState = .busy ∧ step s = .next t :=
  ⟨withEng (busyEng 4#5), _, by decide, rfl, rfl⟩

/-- An engine whose OUT holds the bound itself. -/
theorem witness_EveryStepKeepsOutBounded :
    ∃ s t : State, s.eng.OutBounded ∧ s.eng.outInt 0 = 2939324 ∧ step s = .next t :=
  ⟨withEng { Engine.reset with outBuf := Vector.replicate 64 2939324#32 }, _, by decide, by decide, rfl⟩

theorem witness_BusyEngineCompletesWithTheSameResult :
    ∃ (s : State) (f : Engine), s.eng.engState = .busy ∧ s.eng.complete = some f ∧ Event.reset ∉ s.inputs ∧
      s.inputs.length = 1 :=
  ⟨withEvent (withEng (busyEng 4#5)) statusRead, (busyEng 4#5).completeFwd8, rfl, rfl, by decide, rfl⟩

/-- The same two programs from an IDLE engine and, after a wait, from a BUSY one; the program's last read errs. -/
theorem witness_WaitingProgramsAreDeterministic :
    ∃ (s s' : State) (p q : List HostItem), s.eng.engState = .idle ∧ s'.eng.engState = .busy ∧
      legalCode s'.eng.curCmd = true ∧ (∀ i ∈ p, i.Waits) ∧ List.Forall₂ HostItem.SameButForWaiting p q ∧
      programEvents p ≠ programEvents q := by
  refine ⟨State.reset, withEng (busyEng 4#5),
    [.plain (writeAt 0x100#12 5#32), .issueAndWait (.command 8#32) 0 0, .reset, .plain (readAt 0x014#12)],
    [.plain (writeAt 0x100#12 5#32), .issueAndWait (.command 8#32) 2 1, .reset, .plain (readAt 0x014#12)],
    rfl, rfl, by decide, ?_, ?_, by decide⟩
  · intro i hi
    simp only [List.mem_cons, List.not_mem_nil, or_false] at hi
    rcases hi with rfl | rfl | rfl | rfl
    · rintro ⟨w, hw, -⟩
      simp [cmdWordOf, writeAt] at hw
    · exact ⟨8#32, rfl, by decide⟩
    · trivial
    · rintro ⟨w, hw, -⟩
      simp [cmdWordOf, readAt] at hw
  · exact .cons rfl (.cons rfl (.cons trivial (.cons rfl .nil)))

end Sys2Proof.Tests
end

section
/-! The primitives of R9 and R11, each characterised by inequalities, and O42 assembled from them. -/

namespace Sys2Proof.Machine

/-- R11: Round2 by `n + 1` bits is the floor of x/2^(n+1) + 1/2, written without fractions. -/
theorem round2_succ_floor (x : Int) (n : Nat) :
    2 * 2 ^ (n + 1) * round2 x (n + 1) ≤ 2 * x + 2 ^ (n + 1) ∧
      2 * x + 2 ^ (n + 1) < 2 * 2 ^ (n + 1) * (round2 x (n + 1) + 1) := by
  have hd : (0 : Int) < 2 ^ (n + 1) := by positivity
  have hle := Int.mul_ediv_self_le (x := x + 2 ^ n) hd.ne'
  have hlt := Int.lt_mul_ediv_self_add (x := x + 2 ^ n) hd
  have hhalf : (2 : Int) ^ (n + 1) = 2 * 2 ^ n := pow_succ' 2 n
  rw [round2_succ]
  constructor <;> linarith

theorem clip3_of_lt {lo x : Int} (hi : Int) (h : x < lo) : clip3 lo hi x = lo := if_pos h

theorem clip3_of_gt {lo hi x : Int} (hlo : lo ≤ hi) (h : hi < x) : clip3 lo hi x = hi := by
  rw [clip3, if_neg (by omega), if_pos h]

theorem clip3_of_mem {lo hi x : Int} (h1 : lo ≤ x) (h2 : x ≤ hi) : clip3 lo hi x = x := by
  rw [clip3, if_neg (by omega), if_neg (by omega)]

/-- R9 at the width of an IN entry: the signed 16-bit range. -/
theorem representable_16_iff (v : Int) : representable v 16 = true ↔ -32768 ≤ v ∧ v ≤ 32767 := by
  rw [representable, Bool.and_eq_true, decide_eq_true_eq, decide_eq_true_eq]
  rfl

/-- Settles O42, one lemma per primitive. -/
theorem roundingAndClippingPrimitives : Obligations.RoundingAndClippingPrimitives :=
  ⟨round2_zero, round2_succ_floor,
    fun _ hi _ hlo => ⟨clip3_of_lt hi, clip3_of_gt hlo, clip3_of_mem⟩,
    fun _ _ _ _ _ => rfl,
    representable_16_iff⟩

end Sys2Proof.Machine
end

section
/-! The step at a request (R14), and O10: it is `exec` of what the decoder answers. -/

namespace Sys2Proof.Machine

/-- R14: a request that is the oldest input runs at the state whose inputs have moved past it. -/
theorem step_of_request {s : State} {r : Request} {rest : List Event} (h : s.inputs = .request r :: rest) :
    step s = runRequest r { s with inputs := rest } := by
  rw [step, h]

/-- A request placed before everything still to come runs at once, at the state it was placed in. -/
theorem step_withRequest (s : State) (r : Request) : step (s.withRequest r) = runRequest r s :=
  step_of_request rfl

/-- A table word decodes exactly when the request it stands for does (log 12). -/
theorem decodeTableWord_eq_some_iff (nbits w : Nat) (i : Instr) :
    decodeTableWord nbits w = some i ↔ decode (requestOfTableWord nbits w) = .ok i := by
  unfold decodeTableWord
  cases decode (requestOfTableWord nbits w) <;> simp

/-- Settles O10: the step runs the next request, and a request that decodes runs as its instruction. -/
theorem stepRunsTheDecodedInstruction : Obligations.StepRunsTheDecodedInstruction := by
  refine ⟨fun s r rest i hin hdec => ?_, fun s nbits w i hdec => ?_⟩
  · rw [step_of_request hin, runRequest_ok _ hdec]
  · have hreq := (decodeTableWord_eq_some_iff nbits w i).1 hdec
    rw [State.withFetchWord, step_withRequest, runRequest_ok s hreq]

end Sys2Proof.Machine
end

section
/-! The decoder's legal commands: which words they are (R84), and how their fields follow from the word's bits. -/

namespace Sys2Proof

/-- A word that the decoder does not reject is one of the table of R84. -/
theorem legalWord_of_decodeCommand {w : Word} {op : Op} {size : Size} {plane : Plane}
    (h : decodeCommand w = .legal op size plane) : w ∈ legalCommandWords := by
  have hr : rsvdBits w = 0#27 := by
    by_contra hr
    simp [decodeCommand_of_rsvd hr] at h
  obtain ⟨n, rfl⟩ := word_of_rsvd_zero hr
  have hall : ∀ n : Fin 32, decodeCommand (BitVec.ofNat 32 n.val) = .illegal ∨
      decodeCommand (BitVec.ofNat 32 n.val) = .mismatch ∨ BitVec.ofNat 32 n.val ∈ legalCommandWords := by decide
  rcases hall n with hn | hn | hn
  · simp [hn] at h
  · simp [hn] at h
  · exact hn

/-- Every word of the table of R84 decodes to a command. -/
theorem decodeCommand_of_legalWord {w : Word} (h : w ∈ legalCommandWords) :
    ∃ op size plane, decodeCommand w = .legal op size plane := by
  simp only [legalCommandWords, List.mem_cons, List.not_mem_nil, or_false] at h
  rcases h with rfl | rfl | rfl | rfl | rfl | rfl <;> exact ⟨_, _, _, rfl⟩

/-- R81, R82: a legal code is an inverse command exactly when its bit 0 is set, and 8×8 exactly when its bit 2 is. -/
theorem fields_of_legal_code {c : CmdCode} {op : Op} {size : Size} {plane : Plane}
    (h : decodeCommand (Machine.wordOfCmd c) = .legal op size plane) :
    c.getLsbD 0 = (op == .inv) ∧ c.getLsbD 2 = (size == .n8) := by
  have hall : ∀ c : CmdCode, decodeCommand (Machine.wordOfCmd c) = .illegal ∨
      decodeCommand (Machine.wordOfCmd c) = .mismatch ∨
      decodeCommand (Machine.wordOfCmd c) = .legal (if c.getLsbD 0 then .inv else .fwd)
        (if c.getLsbD 2 then .n8 else .n4) (planeField (Machine.wordOfCmd c)) := by decide
  rcases hall c with hc | hc | hc
  · simp [hc] at h
  · simp [hc] at h
  · rw [h] at hc
    injection hc with hop hsize
    rw [hop, hsize]
    cases c.getLsbD 0 <;> cases c.getLsbD 2 <;> decide

/-- What issue latches of a legal word is a legal code (R25, R84). -/
theorem legalCode_low5 {w : Word} (h : w ∈ legalCommandWords) : Machine.legalCode w.low5 = true := by
  rw [Machine.legalCode, legalWord_of_low5 h]
  simpa using h

/-- The code 0 is no legal command, so LASTCMD = 0 is free to mean that none was accepted (R36). -/
theorem low5_ne_zero {w : Word} (h : w ∈ legalCommandWords) : w.low5 ≠ 0#5 := by
  intro h0
  have hcode := legalCode_low5 h
  rw [h0] at hcode
  exact absurd hcode (by decide)

end Sys2Proof
end

section
/-! The completion, field by field (R37): which fields it sets, and OUT and the two warnings as functions of the command
and of IN. -/

namespace Sys2Proof.Machine

/-- The block that a completion computes from IN (R111, R112, R141, R142). -/
def resultBlock (op : Op) (size : Size) (x : Nat → Int) : Nat → Int :=
  match op, size with
  | .fwd, .n8 => forward8 x
  | .fwd, .n4 => forward4 x
  | .inv, .n8 => (inverse8 x).block
  | .inv, .n4 => (inverse4 x).block

/-- Whether a completion raises RANGE (R33): an inverse one whose range check fails. -/
def raisesRange (op : Op) (size : Size) (x : Nat → Int) : Bool :=
  match op, size with
  | .fwd, _ => false
  | .inv, .n8 => (inverse8 x).viol
  | .inv, .n4 => (inverse4 x).viol

/-- Whether a completion raises DOMAIN (R34): a forward one that reads an entry outside the residual range. -/
def raisesDomain (op : Op) (size : Size) (x : Nat → Int) : Bool :=
  match op with
  | .fwd => domainHit (sizeN size * sizeN size) x
  | .inv => false

/-- The engine after the completion of a command, as one record update. -/
def Engine.completed (e : Engine) (op : Op) (size : Size) : Engine :=
  { e with
    engState := .idle
    done := true
    outBuf := outOfBlock (sizeN size * sizeN size) (resultBlock op size e.inInt)
    range := e.range || raisesRange op size e.inInt
    domain := e.domain || raisesDomain op size e.inInt }

@[simp] theorem Engine.completed_engState (e : Engine) (op : Op) (n : Size) :
    (e.completed op n).engState = .idle := rfl

@[simp] theorem Engine.completed_curCmd (e : Engine) (op : Op) (n : Size) :
    (e.completed op n).curCmd = e.curCmd := rfl

@[simp] theorem Engine.completed_inBuf (e : Engine) (op : Op) (n : Size) :
    (e.completed op n).inBuf = e.inBuf := rfl

@[simp] theorem Engine.completed_outBuf (e : Engine) (op : Op) (n : Size) :
    (e.completed op n).outBuf = outOfBlock (sizeN n * sizeN n) (resultBlock op n e.inInt) := rfl

@[simp] theorem Engine.completed_done (e : Engine) (op : Op) (n : Size) :
    (e.completed op n).done = true := rfl

@[simp] theorem Engine.completed_err (e : Engine) (op : Op) (n : Size) :
    (e.completed op n).err = e.err := rfl

@[simp] theorem Engine.completed_errcode (e : Engine) (op : Op) (n : Size) :
    (e.completed op n).errcode = e.errcode := rfl

@[simp] theorem Engine.completed_range (e : Engine) (op : Op) (n : Size) :
    (e.completed op n).range = (e.range || raisesRange op n e.inInt) := rfl

@[simp] theorem Engine.completed_domain (e : Engine) (op : Op) (n : Size) :
    (e.completed op n).domain = (e.domain || raisesDomain op n e.inInt) := rfl

@[simp] theorem Engine.completed_irqEn (e : Engine) (op : Op) (n : Size) :
    (e.completed op n).irqEn = e.irqEn := rfl

@[simp] theorem Engine.completed_lastCmd (e : Engine) (op : Op) (n : Size) :
    (e.completed op n).lastCmd = e.lastCmd := rfl

/-- A command that CUR_CMD decodes to is the one that completes. -/
theorem Engine.complete_of_decode {e : Engine} {op : Op} {size : Size} {plane : Plane}
    (h : decodeCommand (wordOfCmd e.curCmd) = .legal op size plane) : e.complete = some (e.completed op size) := by
  unfold Engine.complete
  rw [h]
  cases op <;> cases size <;>
    simp [completed, completeFwd8, completeFwd4, completeInv8, completeInv4, finishForward, finishInverse, finish,
      raisesRange, raisesDomain, resultBlock]

/-- A completion that takes place is that of the command that CUR_CMD decodes to. -/
theorem Engine.eq_completed {e f : Engine} (h : e.complete = some f) :
    ∃ op size plane, decodeCommand (wordOfCmd e.curCmd) = .legal op size plane ∧ f = e.completed op size := by
  obtain ⟨op, size, plane, hd, -⟩ := Engine.complete_cases h
  exact ⟨op, size, plane, hd, Option.some.inj (h.symm.trans (Engine.complete_of_decode hd))⟩

end Sys2Proof.Machine
end

section
/-! The step, by the event that comes next (R14). Forward: what the engine is after a reset, a completion, a request.
Backward: everything a step can do to the engine, one named case each, which the claims over every step split on. -/

namespace Sys2Proof.Machine

/-! ### From the event to the engine -/

/-- At the engine's turn the step is that turn, with the completion mark used up if there is one (R37). -/
theorem step_of_engine {s : State} (h : s.NextIsEngine) :
    step s = engineTurn { s with inputs := s.inputs.tail } := by
  rcases h with h | ⟨rest, h⟩
  · have hs : { s with inputs := s.inputs.tail } = s := by rw [h, List.tail_nil, ← h]
    rw [hs, step, h]
  · rw [step, h, List.tail_cons]

/-- R218: the turn of an IDLE engine changes nothing. -/
theorem engineTurn_of_idle {s : State} (h : s.eng.engState = .idle) : engineTurn s = .next s := by
  simp [engineTurn, Engine.busy, h]

/-- R37: the turn of a BUSY engine is the completion of its command. -/
theorem engineTurn_of_busy {s : State} {f : Engine} (h : s.eng.engState = .busy) (hf : s.eng.complete = some f) :
    engineTurn s = .next { s with eng := f } := by
  simp [engineTurn, Engine.busy, h, completionStep, hf]

theorem eng_after_reset {s t : State} (h : step s = .next t) (hr : s.NextIsReset) : t.eng = Engine.reset := by
  obtain ⟨rest, hin⟩ := hr
  rw [step, hin] at h
  injection h with h
  rw [← h, State.resetEvent_eng]

theorem eng_after_completion {s t : State} (h : step s = .next t) (hc : s.CompletesNext) :
    s.eng.complete = some t.eng := by
  obtain ⟨hbusy, hturn⟩ := hc
  rcases step_cases h with ⟨rest, hin, -⟩ | ⟨-, hidle, -⟩ | ⟨-, -, f, hf, rfl⟩ | ⟨r, rest, hin, -⟩
  · exact absurd hturn (not_request_of_reset ⟨rest, hin⟩).2
  · simp [hbusy] at hidle
  · exact hf
  · exact absurd hturn (not_engine_of_request hin).1

theorem eng_after_request {s t : State} {r : Request} (h : step s = .next t) (hr : s.NextIsRequest r) :
    t.eng = hostEffect r s.eng := by
  obtain ⟨rest, hin⟩ := hr
  obtain ⟨u, hu, -, heng⟩ := runRequest_spec r { s with inputs := rest }
  rw [step_of_request hin, hu] at h
  injection h with h
  rw [← h, heng]

theorem eng_after_statusWrite {s t : State} {r : Request} {w : Word} (h : step s = .next t) (hr : s.NextIsRequest r)
    (hw : statusWordOf r = some w) : t.eng = s.eng.statusWrite w := by
  obtain ⟨hcmd, -, -⟩ := (oneTarget r).2.1 w hw
  simp [eng_after_request h hr, hostEffect, hcmd, hw]

/-- R181: on an IDLE engine a legal word issues. -/
theorem Engine.cmdWrite_of_legal {e : Engine} {w : Word} (hidle : e.engState = .idle) (hw : LegalWord w) :
    e.cmdWrite w = e.issue w := by
  obtain ⟨op, size, plane, hd⟩ := decodeCommand_of_legalWord hw
  simp [Engine.cmdWrite, Engine.busy, hidle, hd]

theorem eng_after_issue {s t : State} (h : step s = .next t) (hi : s.IssuesNext) :
    ∃ w, t.eng = s.eng.issue w := by
  obtain ⟨hidle, r, hr, w, hw, hlegal⟩ := hi
  refine ⟨w, ?_⟩
  rw [eng_after_request h hr, ← Engine.cmdWrite_of_legal hidle hlegal]
  simp [hostEffect, hw]

/-! ### From the step to what happened -/

/-- R181, R186: what a request that is rejected or dropped records: BUSY_WRITE while BUSY, the decoder's reason while
IDLE. -/
def Engine.Rejects (e : Engine) (c : ErrorCode) : Prop :=
  (e.engState = .busy ∧ c = .busyWrite) ∨
    (e.engState = .idle ∧ (c = .illegalCmd ∨ c = .transformSizeMismatch))

/-- What happened in a step from `s` to `t`: the event, and the engine it left. -/
inductive StepEffect (s t : State) : Prop
  | reset (h : s.NextIsReset) (ht : t.eng = Engine.reset)
  | idleTurn (h : s.NextIsEngine) (hidle : s.eng.engState = .idle) (ht : t.eng = s.eng)
  | completion (op : Op) (size : Size) (plane : Plane) (h : s.CompletesNext)
      (hd : decodeCommand (wordOfCmd s.eng.curCmd) = .legal op size plane) (ht : t.eng = s.eng.completed op size)
  | issue (r : Request) (w : Word) (hr : s.NextIsRequest r) (hw : cmdWordOf r = some w)
      (hidle : s.eng.engState = .idle) (hlegal : LegalWord w) (ht : t.eng = s.eng.issue w)
  | rejection (r : Request) (c : ErrorCode) (hr : s.NextIsRequest r) (hw : cmdWordOf r ≠ none ∨ inWordOf r ≠ none)
      (hc : s.eng.Rejects c) (ht : t.eng = s.eng.setError c)
  | statusWrite (r : Request) (w : Word) (hr : s.NextIsRequest r) (hw : statusWordOf r = some w)
      (ht : t.eng = s.eng.statusWrite w)
  | ctrlWrite (r : Request) (w : Word) (hr : s.NextIsRequest r) (hw : ctrlWordOf r = some w)
      (ht : t.eng = s.eng.ctrlWrite w)
  | inWrite (r : Request) (k : Fin 64) (w : Word) (hr : s.NextIsRequest r) (hw : inWordOf r = some (k, w))
      (hidle : s.eng.engState = .idle) (ht : t.eng = s.eng.setIn k w.low16)
  | quiet (r : Request) (hr : s.NextIsRequest r) (ht : t.eng = s.eng)

/-- Everything a request can do, as the event of a step. -/
theorem stepEffect_of_request {s t : State} {r : Request} (hr : s.NextIsRequest r)
    (ht : t.eng = hostEffect r s.eng) : StepEffect s t := by
  rcases hostEffect_cases r s.eng with ⟨w, hw, -, -, -, he⟩ | ⟨w, -, hw, -, -, he⟩ | ⟨w, -, -, hw, -, he⟩ |
    ⟨k, w, -, -, -, hw, he⟩ | ⟨-, -, -, -, he⟩ <;> rw [he] at ht
  · have hcmd : cmdWordOf r ≠ none ∨ inWordOf r ≠ none := .inl (by simp [hw])
    rcases s.eng.cmdWrite_cases w with ⟨hb, hx⟩ | ⟨hi, -, hx⟩ | ⟨hi, -, hx⟩ | ⟨hi, ⟨op, size, plane, hd⟩, hx⟩ <;>
      rw [hx] at ht
    · exact .rejection r _ hr hcmd (.inl ⟨hb, rfl⟩) ht
    · exact .rejection r _ hr hcmd (.inr ⟨hi, .inl rfl⟩) ht
    · exact .rejection r _ hr hcmd (.inr ⟨hi, .inr rfl⟩) ht
    · exact .issue r w hr hw hi (legalWord_of_decodeCommand hd) ht
  · exact .statusWrite r w hr hw ht
  · exact .ctrlWrite r w hr hw ht
  · rcases s.eng.inWrite_cases k w with ⟨hb, hx⟩ | ⟨hi, hx⟩ <;> rw [hx] at ht
    · exact .rejection r _ hr (.inr (by simp [hw])) (.inl ⟨hb, rfl⟩) ht
    · exact .inWrite r k w hr hw hi ht
  · exact .quiet r hr ht

/-- Everything a step can do to the engine. -/
theorem stepEffect_of_step {s t : State} (h : step s = .next t) : StepEffect s t := by
  rcases step_cases h with ⟨rest, hin, rfl⟩ | ⟨hturn, hidle, rfl⟩ | ⟨hturn, hbusy, f, hf, rfl⟩ |
    ⟨r, rest, hin, -, ht⟩
  · exact .reset ⟨rest, hin⟩ rfl
  · exact .idleTurn hturn hidle rfl
  · obtain ⟨op, size, plane, hd, rfl⟩ := Engine.eq_completed hf
    exact .completion op size plane ⟨hbusy, hturn⟩ hd rfl
  · exact stepEffect_of_request ⟨rest, hin⟩ ht

end Sys2Proof.Machine
end

section
/-! The invariant, kept by each thing that a step can do to the engine (R23, R32, R36, R37, R211): O52 and O53. -/

namespace Sys2Proof.Machine

/-- The lookup of an entry of OUT at reset (R41). -/
theorem reset_outBuf_get (k : Fin 64) : Engine.reset.outBuf[k] = 0#32 := by
  simp [Engine.reset]

theorem Engine.inv_reset : Engine.reset.Inv := by
  refine ⟨?_, ?_, ?_, ?_, ?_, ?_⟩
  · intro hbusy; cases hbusy
  · intro hbusy; cases hbusy
  · decide
  · exact ⟨rfl, .inl rfl⟩
  · exact fun _ => ⟨rfl, rfl, rfl, rfl, reset_outBuf_get⟩
  · exact fun _ _ k _ => reset_outBuf_get k

/-- R200: the codes are 1, 2 and 3. -/
theorem ErrorCode.code_fits (c : ErrorCode) : c.code ≠ 0#4 ∧ c.code.toNat ≤ 3 := by
  cases c <;> decide

/-- R201: a recorded error leaves a code that fits, the first one or the new one. -/
theorem Engine.ErrcodeFits.setError {e : Engine} (h : e.ErrcodeFits) (c : ErrorCode) :
    (e.setError c).ErrcodeFits := by
  have hcode : (e.setError c).errcode ≠ 0#4 ∧ (e.setError c).errcode.toNat ≤ 3 := by
    rw [Engine.setError_errcode]
    split_ifs with herr
    · exact ⟨h.1.1 herr, h.2⟩
    · exact c.code_fits
  exact ⟨iff_of_true rfl hcode.1, hcode.2⟩

/-- R183: bit 2 clears ERR and ERRCODE together. -/
theorem Engine.ErrcodeFits.statusWrite {e : Engine} (h : e.ErrcodeFits) (w : Word) :
    (e.statusWrite w).ErrcodeFits := by
  unfold Engine.ErrcodeFits
  rw [Engine.statusWrite_err, Engine.statusWrite_errcode]
  cases w.getLsbD 2 with
  | true => simp
  | false => exact h

/-- A recorded error touches ERR and ERRCODE alone. -/
theorem Engine.Inv.setError {e : Engine} (h : e.Inv) (c : ErrorCode) : (e.setError c).Inv := by
  obtain ⟨hlegal, hdone, herr, hlast, hfresh, htail⟩ := h
  exact ⟨hlegal, hdone, herr.setError c, hlast, hfresh, htail⟩

/-- R183: clearing flags keeps the invariant, which asks of them only that they be 0 before the first command. -/
theorem Engine.Inv.statusWrite {e : Engine} (h : e.Inv) (w : Word) : (e.statusWrite w).Inv := by
  obtain ⟨hlegal, hdone, herr, hlast, hfresh, htail⟩ := h
  refine ⟨hlegal, fun hbusy => ?_, herr.statusWrite w, hlast, fun hzero => ?_, htail⟩
  · simp [hdone hbusy]
  · obtain ⟨hidle, hd, hr, hdom, hout⟩ := hfresh hzero
    exact ⟨hidle, by simp [hd], by simp [hr], by simp [hdom], hout⟩

/-- The invariant does not speak of IRQ_EN. -/
theorem Engine.Inv.ctrlWrite {e : Engine} (h : e.Inv) (w : Word) : (e.ctrlWrite w).Inv := h

/-- The invariant does not speak of IN. -/
theorem Engine.Inv.setIn {e : Engine} (h : e.Inv) (k : Fin 64) (v : Half) : (e.setIn k v).Inv := h

/-- R181: issue latches a legal code in both registers and clears DONE. -/
theorem Engine.Inv.issue {e : Engine} (h : e.Inv) {w : Word} (hw : LegalWord w) : (e.issue w).Inv := by
  obtain ⟨-, -, herr, -, -, -⟩ := h
  refine ⟨fun _ => legalCode_low5 hw, fun _ => rfl, herr, ⟨rfl, .inr (legalCode_low5 hw)⟩, fun hzero => ?_,
    fun hidle => ?_⟩
  · exact absurd hzero (low5_ne_zero hw)
  · simp at hidle

/-- R23: a 4×4 completion leaves 0 in OUT[16..63]. -/
theorem Engine.completed_outBuf_tail (e : Engine) (op : Op) {k : Fin 64} (hk : 16 ≤ k.val) :
    (e.completed op .n4).outBuf[k] = 0#32 := by
  rw [Engine.completed_outBuf, outOfBlock_get, if_neg (by simp; omega)]

/-- R37: the completion of a BUSY engine. -/
theorem Engine.Inv.completed {e : Engine} (h : e.Inv) (hbusy : e.engState = .busy) {op : Op} {size : Size}
    {plane : Plane} (hd : decodeCommand (wordOfCmd e.curCmd) = .legal op size plane) : (e.completed op size).Inv := by
  obtain ⟨-, -, herr, hlast, hfresh, -⟩ := h
  refine ⟨fun hb => ?_, fun hb => ?_, herr, hlast, fun hzero => ?_, fun _ hbit k hk => ?_⟩
  · simp at hb
  · simp at hb
  · exact absurd (hfresh hzero).1 (by simp [hbusy])
  · rw [Engine.completed_lastCmd, hlast.1, (fields_of_legal_code hd).2] at hbit
    have hsize : size = .n4 := by
      cases size with
      | n4 => rfl
      | n8 => cases hbit
    subst hsize
    exact e.completed_outBuf_tail op hk

/-- Settles O53: the invariant is kept by each thing that a step can do. -/
theorem everyStepKeepsTheInvariant : Obligations.EveryStepKeepsTheInvariant := by
  intro s t hinv hstep
  unfold State.Inv at hinv ⊢
  cases stepEffect_of_step hstep with
  | reset _ ht => rw [ht]; exact Engine.inv_reset
  | completion op size plane hc hd ht => rw [ht]; exact hinv.completed hc.1 hd
  | issue r w _ _ _ hlegal ht => rw [ht]; exact hinv.issue hlegal
  | rejection r c _ _ _ ht => rw [ht]; exact hinv.setError c
  | statusWrite r w _ _ ht => rw [ht]; exact hinv.statusWrite w
  | ctrlWrite r w _ _ ht => rw [ht]; exact hinv.ctrlWrite w
  | inWrite r k w _ _ _ ht => rw [ht]; exact hinv.setIn k w.low16
  | idleTurn _ _ ht | quiet _ _ ht => rw [ht]; exact hinv

/-- Settles O52: at reset OUT is all 0, within the bounds, and nothing has run. -/
theorem resetMeetsTheInvariant : Obligations.ResetMeetsTheInvariant := by
  refine ⟨Engine.inv_reset, fun k => ?_⟩
  have hk : State.reset.eng.outInt k.val = 0 := by
    simp [Engine.outInt, State.reset, Engine.reset]
  omega

end Sys2Proof.Machine
end

section
/-! Reset and the engine's turn: O1, O15 and O23. -/

namespace Sys2Proof.Machine

/-- Settles O1, field by field of R20's table. -/
theorem resetHoldsTheStatedValues : Obligations.ResetHoldsTheStatedValues := by
  have hin : ∀ k : Fin 64, State.reset.eng.inBuf[k] = 0#16 := fun k => by simp [State.reset, Engine.reset]
  exact ⟨rfl, hin, reset_outBuf_get, rfl, rfl, rfl, rfl, rfl, rfl, rfl, rfl, rfl, rfl, rfl, rfl⟩

/-- Settles O15: the step is the engine's turn, and a legal command completes. -/
theorem completionStepIsEnabledExactlyWhileBusy : Obligations.CompletionStepIsEnabledExactlyWhileBusy := by
  intro s hturn
  rw [step_of_engine hturn]
  refine ⟨fun hidle => engineTurn_of_idle hidle, fun hbusy hlegal => ?_⟩
  obtain ⟨f, hf⟩ := Engine.complete_of_legal hlegal
  obtain ⟨op, size, -, -, rfl⟩ := Engine.eq_completed hf
  exact ⟨_, engineTurn_of_busy hbusy hf, rfl, rfl, rfl⟩

/-- The integers that a transform reads are those of IN. -/
theorem Engine.inInt_congr {e e' : Engine} (h : e.inBuf = e'.inBuf) : e.inInt = e'.inInt := by
  funext k
  simp only [Engine.inInt, h]

/-- Settles O23: OUT and the warnings raised are functions of the command and of IN. -/
theorem completionDependsOnCommandAndInputAlone : Obligations.CompletionDependsOnCommandAndInputAlone := by
  refine ⟨fun e e' f hf hcmd hbuf => ?_, fun e f hf => Engine.complete_frame hf⟩
  obtain ⟨op, size, plane, hd, rfl⟩ := Engine.eq_completed hf
  have hin : e.inInt = e'.inInt := Engine.inInt_congr hbuf
  refine ⟨e'.completed op size, Engine.complete_of_decode (hcmd ▸ hd), ?_, raisesRange op size e.inInt,
    raisesDomain op size e.inInt, rfl, ?_, rfl, ?_⟩
  · simp only [Engine.completed_outBuf, hin]
  · rw [Engine.completed_range, hin]
  · rw [Engine.completed_domain, hin]

end Sys2Proof.Machine
end

section
/-! Who changes what, over every step: O33 to O37, O39 and O40, each a split on what happened in the step. -/

namespace Sys2Proof.Machine

/-- Settles O33: of what can happen in a step, only a completion and a reset write OUT. -/
theorem outChangesOnlyAtCompletion : Obligations.OutChangesOnlyAtCompletion := by
  intro s t hstep hne
  cases stepEffect_of_step hstep with
  | reset hr _ => exact .inr hr
  | completion _ _ _ hc _ _ => exact .inl hc
  | idleTurn _ _ ht | issue _ _ _ _ _ _ ht | rejection _ _ _ _ _ ht | statusWrite _ _ _ _ ht
  | ctrlWrite _ _ _ _ ht | inWrite _ _ _ _ _ _ ht | quiet _ _ ht => simp [ht] at hne

/-- Settles O34: an IN write stores in its own entry, and nothing else but reset writes IN. -/
theorem inChangesOnlyByWritesWhileIdle : Obligations.InChangesOnlyByWritesWhileIdle := by
  intro s t k hstep hne
  cases stepEffect_of_step hstep with
  | reset hr _ => exact .inl hr
  | inWrite r j w hr hw hidle ht =>
    rw [ht, Engine.setIn_get] at hne ⊢
    split_ifs at hne ⊢ with hkj
    · subst hkj
      exact .inr ⟨hidle, r, w, hr, hw, rfl⟩
    · exact absurd rfl hne
  | idleTurn _ _ ht | completion _ _ _ _ _ ht | issue _ _ _ _ _ _ ht | rejection _ _ _ _ _ ht
  | statusWrite _ _ _ _ ht | ctrlWrite _ _ _ _ ht | quiet _ _ ht => simp [ht] at hne

/-- Settles O35: only issue sets BUSY, and only completion and reset clear it. -/
theorem busyRisesAtIssueAndFallsAtCompletion : Obligations.BusyRisesAtIssueAndFallsAtCompletion := by
  intro s t hstep
  refine ⟨fun hidle => ⟨fun hbusy => ?_, fun hissue => ?_⟩, fun hbusy => ⟨fun hidle => ?_, ?_⟩⟩
  · cases stepEffect_of_step hstep with
    | issue r w hr hw _ hlegal _ => exact ⟨hidle, r, hr, w, hw, hlegal⟩
    | reset _ ht => simp [ht, Engine.reset] at hbusy
    | idleTurn _ _ ht | completion _ _ _ _ _ ht | rejection _ _ _ _ _ ht | statusWrite _ _ _ _ ht
    | ctrlWrite _ _ _ _ ht | inWrite _ _ _ _ _ _ ht | quiet _ _ ht => simp [ht, hidle] at hbusy
  · obtain ⟨w, ht⟩ := eng_after_issue hstep hissue
    rw [ht, Engine.issue_engState]
  · cases stepEffect_of_step hstep with
    | reset hr _ => exact .inr hr
    | idleTurn hturn _ _ => exact .inl hturn
    | completion _ _ _ hc _ _ => exact .inl hc.2
    | issue _ _ _ _ hi _ _ | inWrite _ _ _ _ _ hi _ => simp [hbusy] at hi
    | rejection _ _ _ _ _ ht | statusWrite _ _ _ _ ht | ctrlWrite _ _ _ _ ht
    | quiet _ _ ht => simp [ht, hbusy] at hidle
  · rintro (hturn | hr)
    · rw [Engine.complete_frame (eng_after_completion hstep ⟨hbusy, hturn⟩)]
    · rw [eng_after_reset hstep hr]
      rfl

/-- Settles O36: each clause is one event, and no other event writes DONE. -/
theorem doneFollowsItsRule : Obligations.DoneFollowsItsRule := by
  intro s t hstep
  refine ⟨fun hc => ?_, fun hi => ?_, fun hr => ?_, fun r w hr hw hbit => ?_, fun hc hi hr hst => ?_⟩
  · rw [Engine.complete_frame (eng_after_completion hstep hc)]
  · obtain ⟨w, ht⟩ := eng_after_issue hstep hi
    rw [ht, Engine.issue_done]
  · rw [eng_after_reset hstep hr]
    rfl
  · rw [eng_after_statusWrite hstep hr hw, Engine.statusWrite_done, if_pos hbit]
  · cases stepEffect_of_step hstep with
    | reset h _ => exact absurd h hr
    | completion _ _ _ h _ _ => exact absurd h hc
    | issue r w h hw hidle hlegal _ => exact absurd ⟨hidle, r, h, w, hw, hlegal⟩ hi
    | statusWrite r w h hw ht =>
      have hbit : ¬ w.getLsbD 1 = true := fun hbit => hst ⟨r, w, h, hw, hbit⟩
      rw [ht, Engine.statusWrite_done, if_neg hbit]
    | idleTurn _ _ ht | rejection _ _ _ _ _ ht | ctrlWrite _ _ _ _ ht | inWrite _ _ _ _ _ _ ht
    | quiet _ _ ht => simp [ht]

/-- Settles O37: a raised ERR makes `set_error` the identity (R201), and only a STATUS write and reset clear it. -/
theorem firstErrorIsKeptUntilCleared : Obligations.FirstErrorIsKeptUntilCleared := by
  intro s t hstep
  refine ⟨fun hr => ?_, fun r w hr hw hbit => ?_, fun herr hr hst => ?_⟩
  · rw [eng_after_reset hstep hr]
    exact ⟨rfl, rfl⟩
  · rw [eng_after_statusWrite hstep hr hw, Engine.statusWrite_err, Engine.statusWrite_errcode, if_pos hbit,
      if_pos hbit]
    exact ⟨rfl, rfl⟩
  · cases stepEffect_of_step hstep with
    | reset h _ => exact absurd h hr
    | statusWrite r w h hw ht =>
      have hbit : ¬ w.getLsbD 2 = true := fun hbit => hst ⟨r, w, h, hw, hbit⟩
      rw [ht, Engine.statusWrite_err, Engine.statusWrite_errcode, if_neg hbit, if_neg hbit]
      exact ⟨herr, rfl⟩
    | idleTurn _ _ ht | completion _ _ _ _ _ ht | issue _ _ _ _ _ _ ht | rejection _ _ _ _ _ ht
    | ctrlWrite _ _ _ _ ht | inWrite _ _ _ _ _ _ ht | quiet _ _ ht => simp [ht, herr]

/-- Only an inverse command raises RANGE (R33). -/
theorem inv_of_raisesRange {op : Op} {size : Size} {x : Nat → Int} (h : raisesRange op size x = true) : op = .inv := by
  cases op with
  | fwd => cases h
  | inv => rfl

/-- Only a forward command raises DOMAIN (R34). -/
theorem fwd_of_raisesDomain {op : Op} {size : Size} {x : Nat → Int} (h : raisesDomain op size x = true) :
    op = .fwd := by
  cases op with
  | fwd => rfl
  | inv => cases h

/-- R33: RANGE rises only at the completion of an inverse command. -/
theorem completesInverse_of_range_rises {s t : State} (hstep : step s = .next t) (h0 : s.eng.range = false)
    (h1 : t.eng.range = true) : s.CompletesNext ∧ s.eng.curCmd.getLsbD 0 = true := by
  cases stepEffect_of_step hstep with
  | completion op size plane hc hd ht =>
    have hop : op = .inv := by
      rw [ht, Engine.completed_range, h0, Bool.false_or] at h1
      exact inv_of_raisesRange h1
    exact ⟨hc, by rw [(fields_of_legal_code hd).1, hop]; rfl⟩
  | reset _ ht => simp [ht, Engine.reset] at h1
  | statusWrite _ _ _ _ ht | idleTurn _ _ ht | issue _ _ _ _ _ _ ht | rejection _ _ _ _ _ ht
  | ctrlWrite _ _ _ _ ht | inWrite _ _ _ _ _ _ ht | quiet _ _ ht => simp [ht, h0] at h1

/-- R34: DOMAIN rises only at the completion of a forward command. -/
theorem completesForward_of_domain_rises {s t : State} (hstep : step s = .next t) (h0 : s.eng.domain = false)
    (h1 : t.eng.domain = true) : s.CompletesNext ∧ s.eng.curCmd.getLsbD 0 = false := by
  cases stepEffect_of_step hstep with
  | completion op size plane hc hd ht =>
    have hop : op = .fwd := by
      rw [ht, Engine.completed_domain, h0, Bool.false_or] at h1
      exact fwd_of_raisesDomain h1
    exact ⟨hc, by rw [(fields_of_legal_code hd).1, hop]; rfl⟩
  | reset _ ht => simp [ht, Engine.reset] at h1
  | statusWrite _ _ _ _ ht | idleTurn _ _ ht | issue _ _ _ _ _ _ ht | rejection _ _ _ _ _ ht
  | ctrlWrite _ _ _ _ ht | inWrite _ _ _ _ _ _ ht | quiet _ _ ht => simp [ht, h0] at h1

/-- R33, R183: RANGE falls only at a STATUS write with bit 8, or at reset. -/
theorem statusWrite_of_range_falls {s t : State} (hstep : step s = .next t) (h1 : s.eng.range = true)
    (h0 : t.eng.range = false) :
    s.NextIsReset ∨ ∃ r w, s.NextIsRequest r ∧ statusWordOf r = some w ∧ w.getLsbD 8 = true := by
  cases stepEffect_of_step hstep with
  | reset hr _ => exact .inl hr
  | statusWrite r w hr hw ht =>
    rw [ht, Engine.statusWrite_range, h1] at h0
    exact .inr ⟨r, w, hr, hw, by simpa using h0⟩
  | completion _ _ _ _ _ ht | idleTurn _ _ ht | issue _ _ _ _ _ _ ht | rejection _ _ _ _ _ ht
  | ctrlWrite _ _ _ _ ht | inWrite _ _ _ _ _ _ ht | quiet _ _ ht => simp [ht, h1] at h0

/-- R34, R183: DOMAIN falls only at a STATUS write with bit 9, or at reset. -/
theorem statusWrite_of_domain_falls {s t : State} (hstep : step s = .next t) (h1 : s.eng.domain = true)
    (h0 : t.eng.domain = false) :
    s.NextIsReset ∨ ∃ r w, s.NextIsRequest r ∧ statusWordOf r = some w ∧ w.getLsbD 9 = true := by
  cases stepEffect_of_step hstep with
  | reset hr _ => exact .inl hr
  | statusWrite r w hr hw ht =>
    rw [ht, Engine.statusWrite_domain, h1] at h0
    exact .inr ⟨r, w, hr, hw, by simpa using h0⟩
  | completion _ _ _ _ _ ht | idleTurn _ _ ht | issue _ _ _ _ _ _ ht | rejection _ _ _ _ _ ht
  | ctrlWrite _ _ _ _ ht | inWrite _ _ _ _ _ _ ht | quiet _ _ ht => simp [ht, h1] at h0

/-- Settles O39: the rise and the fall of each warning. -/
theorem warningsAreSticky : Obligations.WarningsAreSticky := fun _ _ hstep =>
  ⟨completesInverse_of_range_rises hstep, completesForward_of_domain_rises hstep,
    statusWrite_of_range_falls hstep, statusWrite_of_domain_falls hstep⟩

/-- Settles O40: only issue and reset write CUR_CMD and LASTCMD, and only a CTRL write and reset write IRQ_EN. -/
theorem commandAndControlRegistersChangeOnlyByTheirOwners :
    Obligations.CommandAndControlRegistersChangeOnlyByTheirOwners := by
  intro s t hstep
  refine ⟨fun hne => ?_, fun hne => ?_⟩
  · cases stepEffect_of_step hstep with
    | reset hr _ => exact .inl hr
    | issue r w hr hw hidle hlegal ht => exact .inr ⟨hidle, r, w, hr, hw, hlegal, by simp [ht], by simp [ht]⟩
    | completion _ _ _ _ _ ht | idleTurn _ _ ht | rejection _ _ _ _ _ ht | statusWrite _ _ _ _ ht
    | ctrlWrite _ _ _ _ ht | inWrite _ _ _ _ _ _ ht | quiet _ _ ht => simp [ht] at hne
  · cases stepEffect_of_step hstep with
    | reset hr _ => exact .inl hr
    | ctrlWrite r w hr hw ht => exact .inr ⟨r, w, hr, hw, by rw [ht, Engine.ctrlWrite_irqEn]⟩
    | completion _ _ _ _ _ ht | idleTurn _ _ ht | issue _ _ _ _ _ _ ht | rejection _ _ _ _ _ ht
    | statusWrite _ _ _ _ ht | inWrite _ _ _ _ _ _ ht | quiet _ _ ht => simp [ht] at hne

end Sys2Proof.Machine
end

section
/-! No bit of a block is lost in OUT (R37): O47. The bound is a coarse one, and enough for 32 bits: an addition, a
subtraction and a butterfly at most double the size of their operands, and no kernel is deeper than four of them. -/

namespace Sys2Proof.Machine

/-- Round2 by `n` bits brings `B * 2^n` down to `B`. -/
theorem abs_round2_le {x B : Int} {n : Nat} (h : |x| ≤ B * 2 ^ n) : |round2 x n| ≤ B := by
  cases n with
  | zero => simpa [round2_zero] using h
  | succ m =>
    have hhalf : (0 : Int) < 2 ^ m := by positivity
    have hpow : (2 : Int) ^ (m + 1) = 2 * 2 ^ m := pow_succ' 2 m
    obtain ⟨hlo, hhi⟩ := abs_le.1 h
    rw [round2_succ, abs_le]
    constructor
    · exact Int.le_ediv_of_mul_le (by positivity) (by linarith)
    · exact Int.lt_add_one_iff.1 (Int.ediv_lt_of_lt_mul (by positivity) (by linarith))

/-- Round2 never leaves a bound. -/
theorem abs_round2_le_of_le {x B : Int} (n : Nat) (h : |x| ≤ B) : |round2 x n| ≤ B := by
  have hB : 0 ≤ B := (abs_nonneg x).trans h
  exact abs_round2_le (h.trans (le_mul_of_one_le_right hB (one_le_pow₀ (by norm_num))))

/-! ### Each operation of a kernel doubles a bound -/

/-- An input serves at any level. -/
theorem abs_le_two_pow_mul {x B : Int} (n : Nat) (h : |x| ≤ B) : |x| ≤ 2 ^ n * B := by
  have hB : 0 ≤ B := (abs_nonneg x).trans h
  exact h.trans (le_mul_of_one_le_left hB (one_le_pow₀ (by norm_num)))

theorem abs_add_le_two_pow_mul {a b B : Int} {n : Nat} (ha : |a| ≤ 2 ^ n * B) (hb : |b| ≤ 2 ^ n * B) :
    |a + b| ≤ 2 ^ (n + 1) * B := by
  have := abs_add_le a b
  rw [pow_succ']
  linarith

theorem abs_sub_le_two_pow_mul {a b B : Int} {n : Nat} (ha : |a| ≤ 2 ^ n * B) (hb : |b| ≤ 2 ^ n * B) :
    |a - b| ≤ 2 ^ (n + 1) * B := by
  have := abs_sub a b
  rw [pow_succ']
  linarith

/-- A butterfly whose weights are within its precision. -/
theorem abs_halfBtf_le_two_pow_mul {w0 a w1 b B : Int} {n bit : Nat} (hw0 : |w0| ≤ 2 ^ bit) (hw1 : |w1| ≤ 2 ^ bit)
    (ha : |a| ≤ 2 ^ n * B) (hb : |b| ≤ 2 ^ n * B) : |halfBtf w0 a w1 b bit| ≤ 2 ^ (n + 1) * B := by
  have hbit : (0 : Int) ≤ 2 ^ bit := by positivity
  have h0 : |w0 * a| ≤ 2 ^ bit * (2 ^ n * B) := by
    rw [abs_mul]
    exact mul_le_mul hw0 ha (abs_nonneg a) hbit
  have h1 : |w1 * b| ≤ 2 ^ bit * (2 ^ n * B) := by
    rw [abs_mul]
    exact mul_le_mul hw1 hb (abs_nonneg b) hbit
  refine abs_round2_le ?_
  calc |w0 * a + w1 * b| ≤ |w0 * a| + |w1 * b| := abs_add_le _ _
    _ ≤ 2 ^ bit * (2 ^ n * B) + 2 ^ bit * (2 ^ n * B) := add_le_add h0 h1
    _ = 2 ^ (n + 1) * B * 2 ^ bit := by ring

/-! ### The kernels as circuits -/

/-- Every weight of a table is at most `W` in size. -/
structure CosTable.Within (c : CosTable) (W : Int) : Prop where
  c8 : |c.c8| ≤ W
  c16 : |c.c16| ≤ W
  c24 : |c.c24| ≤ W
  c32 : |c.c32| ≤ W
  c40 : |c.c40| ≤ W
  c48 : |c.c48| ≤ W
  c56 : |c.c56| ≤ W

theorem cos12_within : CosTable.Within Config.cos12 (2 ^ 12) := by constructor <;> decide

theorem cos13_within : CosTable.Within Config.cos13 (2 ^ 13) := by constructor <;> decide

/-- A value computed from the inputs `x` by at most `n` levels of additions, subtractions and butterflies. -/
inductive Circuit (bit : Nat) (x : Nat → Int) : Nat → Int → Prop
  | input (n : Nat) (j : Nat) : Circuit bit x n (x j)
  | add {n : Nat} {a b : Int} : Circuit bit x n a → Circuit bit x n b → Circuit bit x (n + 1) (a + b)
  | sub {n : Nat} {a b : Int} : Circuit bit x n a → Circuit bit x n b → Circuit bit x (n + 1) (a - b)
  | btf {n : Nat} {w0 a w1 b : Int} : |w0| ≤ 2 ^ bit → |w1| ≤ 2 ^ bit → Circuit bit x n a → Circuit bit x n b →
      Circuit bit x (n + 1) (halfBtf w0 a w1 b bit)

/-- Each level doubles the bound on the inputs. -/
theorem Circuit.abs_le {bit n : Nat} {x : Nat → Int} {v B : Int} (h : Circuit bit x n v) (hx : ∀ j, |x j| ≤ B) :
    |v| ≤ 2 ^ n * B := by
  induction h with
  | input n j => exact abs_le_two_pow_mul n (hx j)
  | add _ _ ha hb => exact abs_add_le_two_pow_mul ha hb
  | sub _ _ ha hb => exact abs_sub_le_two_pow_mul ha hb
  | btf hw0 hw1 _ _ ha hb => exact abs_halfBtf_le_two_pow_mul hw0 hw1 ha hb

theorem abs_neg_le {w W : Int} (h : |w| ≤ W) : |-w| ≤ W := (abs_neg w).trans_le h

section Kernels

variable {c : CosTable} {bit : Nat} (x : Nat → Int)

theorem circuit_of_mem_fdct4 (hc : CosTable.Within c (2 ^ bit)) :
    ∀ y ∈ fdct4 c bit x, Circuit bit x 4 y := by
  obtain ⟨h8, h16, h24, h32, h40, h48, h56⟩ := hc
  simp only [fdct4, List.forall_mem_cons]
  refine ⟨?_, ?_, ?_, ?_, nofun⟩ <;>
    apply_rules [Circuit.input, Circuit.sub, Circuit.add, Circuit.btf, abs_neg_le]

theorem circuit_of_mem_fdct8 (hc : CosTable.Within c (2 ^ bit)) :
    ∀ y ∈ fdct8 c bit x, Circuit bit x 4 y := by
  obtain ⟨h8, h16, h24, h32, h40, h48, h56⟩ := hc
  simp only [fdct8, List.forall_mem_cons]
  refine ⟨?_, ?_, ?_, ?_, ?_, ?_, ?_, ?_, nofun⟩ <;>
    apply_rules [Circuit.input, Circuit.sub, Circuit.add, Circuit.btf, abs_neg_le]

theorem circuit_of_mem_idct4 (hc : CosTable.Within c (2 ^ bit)) :
    ∀ y ∈ (idct4 c bit x).out, Circuit bit x 4 y := by
  obtain ⟨h8, h16, h24, h32, h40, h48, h56⟩ := hc
  simp only [idct4, List.forall_mem_cons]
  refine ⟨?_, ?_, ?_, ?_, nofun⟩ <;>
    apply_rules [Circuit.input, Circuit.sub, Circuit.add, Circuit.btf, abs_neg_le]

theorem circuit_of_mem_idct8 (hc : CosTable.Within c (2 ^ bit)) :
    ∀ y ∈ (idct8 c bit x).out, Circuit bit x 4 y := by
  obtain ⟨h8, h16, h24, h32, h40, h48, h56⟩ := hc
  simp only [idct8, List.forall_mem_cons]
  refine ⟨?_, ?_, ?_, ?_, ?_, ?_, ?_, ?_, nofun⟩ <;>
    apply_rules [Circuit.input, Circuit.sub, Circuit.add, Circuit.btf, abs_neg_le]

end Kernels

/-! ### The two passes, and OUT -/

/-- An entry of a kernel's output, or the 0 beyond its end. -/
theorem abs_getD_le {bit : Nat} {x : Nat → Int} {B : Int} {l : List Int} (h : ∀ y ∈ l, Circuit bit x 4 y)
    (hx : ∀ j, |x j| ≤ B) (i : Nat) : |l.getD i 0| ≤ 16 * B := by
  have hB : 0 ≤ B := (abs_nonneg (x 0)).trans (hx 0)
  rw [List.getD_eq_getElem?_getD]
  cases hi : l[i]? with
  | none => simpa using hB
  | some y => simpa using (h y (List.mem_of_getElem? hi)).abs_le hx

/-- R110: a forward transform of two kernel passes. -/
theorem abs_forward2D_le {bit : Nat} {fdct : (Nat → Int) → List Int}
    (hf : ∀ x, ∀ y ∈ fdct x, Circuit bit x 4 y) (n s0 s1 s2 : Nat) {x : Nat → Int} {B : Int} (hx : ∀ j, |x j| ≤ B)
    (k : Nat) : |forward2D n fdct s0 s1 s2 x k| ≤ 16 * (16 * (B * 2 ^ s0)) := by
  have hin : ∀ j, |x j * 2 ^ s0| ≤ B * 2 ^ s0 := fun j => by
    rw [abs_mul, abs_of_pos (by positivity : (0 : Int) < 2 ^ s0)]
    exact mul_le_mul_of_nonneg_right (hx j) (by positivity)
  have hcolumn : ∀ j, |round2 ((fdct fun i => x (i * n + j) * 2 ^ s0).getD (k / n) 0) s1| ≤ 16 * (B * 2 ^ s0) :=
    fun j => abs_round2_le_of_le s1 (abs_getD_le (hf _) (fun i => hin (i * n + j)) (k / n))
  exact abs_round2_le_of_le s2 (abs_getD_le (hf _) hcolumn (k % n))

/-- R140: an inverse transform, bounded by the clamp before its last pass whatever the input. -/
theorem abs_inverse2D_block_le {bit : Nat} {idct : (Nat → Int) → Idct}
    (hf : ∀ x, ∀ y ∈ (idct x).out, Circuit bit x 4 y) (n rowShift : Nat) (x : Nat → Int) (k : Nat) :
    |(inverse2D n idct rowShift x).block k| ≤ 16 * 32768 := by
  have hmid : ∀ i, |inverseMid n idct rowShift x i (k % n)| ≤ 32768 := fun i => by
    have hclamp := clampTo_16_bounds (round2 ((inverseRow n idct x i).out.getD (k % n) 0) rowShift)
    exact abs_le.2 ⟨hclamp.1, hclamp.2.trans (by norm_num)⟩
  exact abs_round2_le_of_le Config.invColShift (abs_getD_le (hf _) hmid (k / n))

/-- Every block that a completion computes is far within 32 bits. -/
theorem abs_resultBlock_inInt_le (e : Engine) (op : Op) (size : Size) (k : Nat) :
    |resultBlock op size e.inInt k| ≤ 2 ^ 25 := by
  have hin : ∀ j, |e.inInt j| ≤ 32768 := fun j =>
    abs_le.2 ⟨(e.inInt_bounds j).1, (e.inInt_bounds j).2.trans (by norm_num)⟩
  cases op <;> cases size
  case fwd.n4 => exact abs_forward2D_le (circuit_of_mem_fdct4 · cos13_within) 4 2 0 0 hin k
  case fwd.n8 => exact abs_forward2D_le (circuit_of_mem_fdct8 · cos13_within) 8 2 1 0 hin k
  case inv.n4 => exact (abs_inverse2D_block_le (circuit_of_mem_idct4 · cos12_within) 4 0 _ k).trans (by norm_num)
  case inv.n8 => exact (abs_inverse2D_block_le (circuit_of_mem_idct8 · cos12_within) 8 1 _ k).trans (by norm_num)

/-- An entry of OUT after a completion, read as a signed integer, is the block's. -/
theorem Engine.completed_outInt (e : Engine) (op : Op) (size : Size) {k : Nat} (hk : k < sizeN size * sizeN size) :
    (e.completed op size).outInt k = resultBlock op size e.inInt k := by
  have hk64 : k < 64 := hk.trans_le (by cases size <;> decide)
  have hget := outOfBlock_get (sizeN size * sizeN size) (resultBlock op size e.inInt) ⟨k, hk64⟩
  obtain ⟨hlo, hhi⟩ := abs_le.1 (abs_resultBlock_inInt_le e op size k)
  rw [if_pos hk] at hget
  rw [Engine.outInt, dif_pos hk64, Engine.completed_outBuf]
  calc _ = (outEntryOfInt (resultBlock op size e.inInt k)).toInt := congrArg BitVec.toInt hget
    _ = resultBlock op size e.inInt k := outEntryOfInt_toInt (by omega) (by omega)

/-- Settles O47: each of the four completions stores a block that 32 bits hold. -/
theorem outHoldsTheBlockExactly : Obligations.OutHoldsTheBlockExactly := fun e _ =>
  ⟨e.completed_outInt .fwd .n8, e.completed_outInt .fwd .n4, e.completed_outInt .inv .n8,
    e.completed_outInt .inv .n4⟩

end Sys2Proof.Machine
end

section
/-! The checks of a transaction as numbers (R63, R65 to R67), and what the decoder accepts: O9. -/

namespace Sys2Proof

/-! ### The checks -/

/-- R63: the offsets that are not reserved. -/
theorem Transaction.mapped_iff (t : Transaction) :
    t.mapped = true ↔ t.off.toNat ≤ 0x013 ∨ (0x100 ≤ t.off.toNat ∧ t.off.toNat ≤ 0x2FF) := by
  simp [mapped, addressMap, Region.holds]
  omega

/-- R67: the offsets that a write may reach. -/
theorem Transaction.writable_iff (t : Transaction) :
    t.writable = true ↔ (0x004 ≤ t.off.toNat ∧ t.off.toNat ≤ 0x00F) ∨ (0x100 ≤ t.off.toNat ∧ t.off.toNat ≤ 0x1FF) := by
  simp [writable, addressMap, Region.holds]
  omega

/-- R67: what may be written is mapped. -/
theorem Transaction.mapped_of_writable {t : Transaction} (h : t.writable = true) : t.mapped = true := by
  rw [t.writable_iff] at h
  rw [t.mapped_iff]
  omega

/-- R170: the four checks; a read needs a mapped offset, and a write a writable one. -/
theorem Transaction.accepted_iff (t : Transaction) :
    t.accepted = true ↔ t.size = 4 ∧ t.off.toNat % 4 = 0 ∧
      (t.kind = .read → t.mapped = true) ∧ (t.kind = .write → t.writable = true) := by
  have hchecks : t.accepted = true ↔
      t.size = 4 ∧ t.off.toNat % 4 = 0 ∧ t.mapped = true ∧ (t.kind = .read ∨ t.writable = true) := by
    simp [accepted, sizeOk, aligned, and_assoc]
  rw [hchecks]
  cases t.kind with
  | read => simp
  | write => simpa using fun _ _ => mapped_of_writable

/-- R63, R65 to R67: the checks by numbers. -/
theorem Transaction.accepted_eq_false_iff (t : Transaction) :
    t.accepted = false ↔
      t.size ≠ 4 ∨ t.off.toNat % 4 ≠ 0 ∨ (0x014 ≤ t.off.toNat ∧ t.off.toNat ≤ 0x0FF) ∨ 0x300 ≤ t.off.toNat ∨
        (t.kind = .write ∧
          (t.off.toNat = 0x000 ∨ t.off.toNat = 0x010 ∨ (0x200 ≤ t.off.toNat ∧ t.off.toNat ≤ 0x2FF))) := by
  rw [← Bool.not_eq_true, accepted_iff]
  cases t.kind <;> simp only [t.mapped_iff, t.writable_iff, reduceCtorEq, forall_const, false_implies, true_and,
    and_true, false_and, or_false] <;> omega

/-! ### What the decoder accepts -/

/-- R65, R66, R63: the checks that make a transaction an instruction. -/
theorem wellFormed_bus_iff (t : Transaction) :
    (Request.bus t).wellFormed = true ↔ t.size = 4 ∧ t.off.toNat % 4 = 0 ∧ t.mapped = true := by
  simp [Request.wellFormed, Transaction.sizeOk, Transaction.aligned, and_assoc]

/-- R171: a read decodes at exactly the mapped offsets. -/
theorem decodeRead_ok_iff {t : Transaction} (ha : t.off.toNat % 4 = 0) :
    (∃ i, decodeRead t.off = .ok i) ↔ t.mapped = true := by
  rw [decodeRead_eq, t.mapped_iff]
  split_ifs <;> simp <;> omega

/-- R172, R180: a write decodes at exactly the mapped offsets. -/
theorem decodeWrite_ok_iff {t : Transaction} (ha : t.off.toNat % 4 = 0) :
    (∃ i, decodeWrite t.off t.wdata = .ok i) ↔ t.mapped = true := by
  rw [decodeWrite_eq, t.mapped_iff]
  split_ifs <;> simp <;> omega

theorem decodeTransaction_ok_iff (t : Transaction) :
    (∃ i, decodeTransaction t = .ok i) ↔ t.size = 4 ∧ t.off.toNat % 4 = 0 ∧ t.mapped = true := by
  by_cases hs : t.size = 4
  swap
  · simp [decodeTransaction_badSize hs, hs]
  by_cases ha : t.off.toNat % 4 = 0
  swap
  · simp [decodeTransaction_misaligned hs ha, ha]
  rw [decodeTransaction_aligned hs ha, and_iff_right hs, and_iff_right ha]
  cases t.kind with
  | read => exact decodeRead_ok_iff ha
  | write => exact decodeWrite_ok_iff ha

/-- R84: a command word decodes exactly when it is one of the six. -/
theorem decodeCommandWord_ok_iff (w : Word) : (∃ i, decodeCommandWord w = .ok i) ↔ w ∈ legalCommandWords := by
  constructor
  · rintro ⟨i, hi⟩
    cases hd : decodeCommand w with
    | illegal => simp [decodeCommandWord, hd] at hi
    | mismatch => simp [decodeCommandWord, hd] at hi
    | legal op size plane => exact legalWord_of_decodeCommand hd
  · intro hw
    simp only [legalCommandWords, List.mem_cons, List.not_mem_nil, or_false] at hw
    rcases hw with rfl | rfl | rfl | rfl | rfl | rfl <;> exact ⟨_, rfl⟩

/-- Settles O9, by the kind of request. -/
theorem decodeAcceptsExactlyTheWellFormed : Obligations.DecodeAcceptsExactlyTheWellFormed := by
  intro r
  cases r with
  | bus t => exact (decodeTransaction_ok_iff t).trans (wellFormed_bus_iff t).symm
  | command w => exact (decodeCommandWord_ok_iff w).trans List.contains_iff_mem.symm

end Sys2Proof
end

section
/-! A bus transaction as the dispatch of R171 and R172: everything it can do, and from that O12 (R202) and O27 (R69). -/

namespace Sys2Proof.Machine

/-! ### A transaction runs as the rules' dispatch -/

/-- R171: an aligned read of four bytes; the data it carries play no part. -/
theorem runRequest_read (s : State) {off : Offset} (w : Word) (ha : off.toNat % 4 = 0) :
    runRequest (.bus { kind := .read, off := off, size := 4, wdata := w }) s = .next (s.busRead off 4) := by
  have hd : decode (.bus { kind := .read, off := off, size := 4, wdata := w }) = decodeRead off :=
    decodeTransaction_aligned rfl ha
  have hin : off.toNat ≤ 0x1FF ↔ off.toNat ≤ 0x1FC := by omega
  have hout : off.toNat ≤ 0x2FF ↔ off.toNat ≤ 0x2FC := by omega
  simp only [runRequest, hd, decodeRead_eq, State.busRead, ne_eq, ha, not_true_eq_false, or_self, if_false,
    Engine.readReg, hin, hout, bufferIndex_eq_entryOf]
  split_ifs <;> rfl

/-- R172, R180: an aligned write of four bytes. The decoder has rows for the read-only offsets, which the dispatch of
R172 leaves to its "otherwise": both are BusError. The two agree branch by branch, and no offset is in two branches. -/
theorem runRequest_write (s : State) {off : Offset} (w : Word) (ha : off.toNat % 4 = 0) :
    runRequest (.bus { kind := .write, off := off, size := 4, wdata := w }) s = .next (s.busWrite off 4 w) := by
  have hd : decode (.bus { kind := .write, off := off, size := 4, wdata := w }) = decodeWrite off w :=
    decodeTransaction_aligned rfl ha
  have hin : off.toNat ≤ 0x1FF ↔ off.toNat ≤ 0x1FC := by omega
  simp only [runRequest, hd, decodeWrite_eq, State.busWrite, ne_eq, ha, not_true_eq_false, or_self, if_false,
    Engine.writeReg, hin, bufferIndex_eq_entryOf]
  split_ifs <;> first | rfl | omega

theorem State.busTransaction_unchecked (s : State) {t : Transaction} (h : t.size ≠ 4 ∨ t.off.toNat % 4 ≠ 0) :
    s.busTransaction t = s.busError t.kind := by
  cases hk : t.kind <;> simp only [State.busTransaction, hk, State.busRead, State.busWrite, if_pos h]

/-- R170: a transaction that fails the size or the alignment check is rejected, as the dispatch says. -/
theorem runRequest_unchecked {t : Transaction} (s : State) (h : t.size ≠ 4 ∨ t.off.toNat % 4 ≠ 0) :
    runRequest (.bus t) s = .next (s.busTransaction t) := by
  rw [s.busTransaction_unchecked h]
  by_cases hs : t.size = 4
  · exact runRequest_error s (decodeTransaction_misaligned hs (h.resolve_left (not_not_intro hs)))
  · exact runRequest_error s (decodeTransaction_badSize hs)

/-- R170 to R172: in every state, a transaction does what the rules' own dispatch says. -/
theorem runRequest_bus (s : State) (t : Transaction) : runRequest (.bus t) s = .next (s.busTransaction t) := by
  by_cases h : t.size = 4 ∧ t.off.toNat % 4 = 0
  · obtain ⟨kind, off, size, w⟩ := t
    obtain ⟨rfl, ha⟩ := h
    cases kind with
    | read => exact runRequest_read s w ha
    | write => exact runRequest_write s w ha
  · exact runRequest_unchecked s (not_and_or.1 h)

/-- The step at a transaction (R14, R170). -/
theorem step_of_bus {s : State} {t : Transaction} {rest : List Event} (h : s.inputs = .request (.bus t) :: rest) :
    step s = .next (State.busTransaction { s with inputs := rest } t) := by
  rw [step_of_request h, runRequest_bus]

/-! ### Everything a transaction can do -/

/-- R171: at an aligned offset the read dispatch answers exactly where the map holds one. -/
theorem Engine.readReg_isSome_iff (e : Engine) {t : Transaction} (ha : t.off.toNat % 4 = 0) :
    (e.readReg t.off).isSome = true ↔ t.mapped = true := by
  rw [Engine.readReg, t.mapped_iff]
  split_ifs <;> simp <;> omega

/-- R172: at an aligned offset the write dispatch answers exactly where the map lets a write pass. -/
theorem Engine.writeReg_isSome_iff (e : Engine) {t : Transaction} (ha : t.off.toNat % 4 = 0) :
    (e.writeReg t.off t.wdata).isSome = true ↔ t.writable = true := by
  rw [Engine.writeReg, t.writable_iff]
  split_ifs <;> simp <;> omega

/-- Everything a transaction can do (R170 to R172): an accepted read answers its register's word, an accepted write
answers OK with the engine its register's rule gives, and what is not accepted is BusError. -/
theorem State.busTransaction_cases (s : State) (t : Transaction) :
    (t.accepted = true ∧ t.kind = .read ∧
      ∃ v, s.eng.readReg t.off = some v ∧ s.busTransaction t = s.replyRead v) ∨
    (t.accepted = true ∧ t.kind = .write ∧
      ∃ e, s.eng.writeReg t.off t.wdata = some e ∧ s.busTransaction t = s.replyWrite e) ∨
    (t.accepted = false ∧ s.busTransaction t = s.busError t.kind) := by
  by_cases h : t.size ≠ 4 ∨ t.off.toNat % 4 ≠ 0
  · have hacc : t.accepted = false := by
      rw [← Bool.not_eq_true, t.accepted_iff]
      omega
    exact .inr (.inr ⟨hacc, s.busTransaction_unchecked h⟩)
  obtain ⟨hs, ha⟩ : t.size = 4 ∧ t.off.toNat % 4 = 0 := by omega
  cases hk : t.kind with
  | read =>
    have hacc : t.accepted = (s.eng.readReg t.off).isSome := by
      rw [Bool.eq_iff_iff, s.eng.readReg_isSome_iff ha]
      simp [t.accepted_iff, hs, ha, hk]
    cases hv : s.eng.readReg t.off <;> simp [hacc, hv, State.busTransaction, State.busRead, hk, hs, ha]
  | write =>
    have hacc : t.accepted = (s.eng.writeReg t.off t.wdata).isSome := by
      rw [Bool.eq_iff_iff, s.eng.writeReg_isSome_iff ha]
      simp [t.accepted_iff, hs, ha, hk]
    cases hv : s.eng.writeReg t.off t.wdata <;> simp [hacc, hv, State.busTransaction, State.busWrite, hk, hs, ha]

/-- No transaction touches what is still to come. -/
@[simp] theorem State.busTransaction_inputs (s : State) (t : Transaction) : (s.busTransaction t).inputs = s.inputs := by
  rcases s.busTransaction_cases t with ⟨-, -, v, -, ht⟩ | ⟨-, -, e, -, ht⟩ | ⟨-, ht⟩ <;> simp [ht]

/-! ### BusError -/

/-- R202: a transaction answers the error response exactly when it is not accepted. -/
theorem State.busTransaction_response (s : State) (t : Transaction) :
    ∃ x, (s.busTransaction t).response = some x ∧ (x.isError = true ↔ t.accepted = false) := by
  rcases s.busTransaction_cases t with ⟨hacc, -, v, -, ht⟩ | ⟨hacc, -, e, -, ht⟩ | ⟨hacc, ht⟩ <;> rw [ht]
  · exact ⟨.readOk v, rfl, by simp [Response.isError, hacc]⟩
  · exact ⟨.writeOk, rfl, by simp [Response.isError, hacc]⟩
  · cases t.kind <;> exact ⟨_, rfl, by simp [Response.isError, hacc]⟩

/-- R202: BusError changes no engine state. -/
theorem State.busTransaction_eng_of_not_accepted (s : State) {t : Transaction} (h : t.accepted = false) :
    (s.busTransaction t).eng = s.eng := by
  rcases s.busTransaction_cases t with ⟨hacc, -⟩ | ⟨hacc, -⟩ | ⟨-, ht⟩
  · simp [h] at hacc
  · simp [h] at hacc
  · simp [ht]

/-- Settles O12: the response tells whether the checks passed, and a transaction that fails one leaves the engine. -/
theorem busErrorChangesNoEngineState : Obligations.BusErrorChangesNoEngineState := by
  intro s t rest hin
  obtain ⟨x, hx, herr⟩ := State.busTransaction_response { s with inputs := rest } t
  exact ⟨_, x, step_of_bus hin, State.busTransaction_inputs _ t, hx, herr.trans t.accepted_eq_false_iff,
    fun hxe => State.busTransaction_eng_of_not_accepted _ (herr.1 hxe)⟩

/-! ### Reads -/

/-- R69: a read changes no engine state, accepted or not. -/
theorem State.busTransaction_eng_of_read (s : State) {t : Transaction} (h : t.kind = .read) :
    (s.busTransaction t).eng = s.eng := by
  rcases s.busTransaction_cases t with ⟨-, -, v, -, ht⟩ | ⟨-, hk, -⟩ | ⟨-, ht⟩
  · simp [ht]
  · simp [h] at hk
  · simp [ht]

/-- R171: an accepted read answers the word of its register. -/
theorem State.busTransaction_of_accepted_read (s : State) {t : Transaction} (h : t.kind = .read)
    (hacc : t.accepted = true) : ∃ v, s.eng.readReg t.off = some v ∧ s.busTransaction t = s.replyRead v := by
  rcases s.busTransaction_cases t with ⟨-, -, hv⟩ | ⟨-, hk, -⟩ | ⟨hrej, -⟩
  · exact hv
  · simp [h] at hk
  · simp [hacc] at hrej

/-- What an accepted read answers depends on the engine alone. -/
theorem response_congr_of_accepted_read {t : Transaction} {s s' : State} (h : t.kind = .read) (hacc : t.accepted = true)
    (heng : s.eng = s'.eng) : (s.busTransaction t).response = (s'.busTransaction t).response := by
  obtain ⟨v, hv, ht⟩ := s.busTransaction_of_accepted_read h hacc
  obtain ⟨v', hv', ht'⟩ := s'.busTransaction_of_accepted_read h hacc
  obtain rfl : v' = v := Option.some.inj (hv'.symm.trans (heng ▸ hv))
  rw [ht, ht', State.replyRead_response, State.replyRead_response]

/-- Settles O27: the second read finds the engine that the first one found. -/
theorem readsHaveNoSideEffects : Obligations.ReadsHaveNoSideEffects := by
  intro s t rest hk hin
  have hu := State.busTransaction_eng_of_read { s with inputs := .request (.bus t) :: rest } hk
  exact ⟨_, _, step_of_bus hin, step_of_bus (State.busTransaction_inputs _ t), hu,
    (State.busTransaction_eng_of_read _ hk).trans hu,
    fun hacc => response_congr_of_accepted_read hk hacc hu.symm⟩

end Sys2Proof.Machine
end

section
/-! The bus window (R61, R62) and the byte lanes of a bus word (R64): O50 and O51. -/

namespace Sys2Proof

/-- R61: an address in the window is the transaction at its distance from the base. -/
theorem Transaction.atAddress_of_mem {base addr : Nat} (kind : Access) (size : Nat) (w : Word) (hlo : base ≤ addr)
    (hhi : addr < base + 4096) :
    atAddress base addr kind size w =
      some { kind := kind, off := BitVec.ofNat 12 (addr - base), size := size, wdata := w } :=
  if_pos ⟨hlo, hhi⟩

/-- R61: an address outside the window reaches nothing. -/
theorem Transaction.atAddress_of_not_mem {base addr : Nat} (kind : Access) (size : Nat) (w : Word)
    (h : addr < base ∨ base + 4096 ≤ addr) : atAddress base addr kind size w = none :=
  if_neg fun ⟨hlo, hhi⟩ => h.elim (Nat.not_lt.2 hlo) (Nat.not_le.2 hhi)

/-- Settles O50: the distance from the base fits in twelve bits, and an aligned base leaves the low twelve alone. -/
theorem windowAddressesGiveTheirOffset : Obligations.WindowAddressesGiveTheirOffset := by
  intro base addr size kind w hbase
  refine ⟨fun hlo hhi => ⟨_, Transaction.atAddress_of_mem kind size w hlo hhi, ?_, ?_, rfl, rfl, rfl⟩,
    Transaction.atAddress_of_not_mem kind size w⟩
  all_goals
    rw [BitVec.toNat_ofNat]
    omega

/-- Settles O51: lanes are adjacent fields, so joining them from the top gives ever longer fields, the last the word. -/
theorem byteLanesMakeUpTheWord : Obligations.ByteLanesMakeUpTheWord := by
  intro w
  have h32 : Machine.byteLane w 3 ++ Machine.byteLane w 2 = w.extractLsb' 16 16 :=
    BitVec.extractLsb'_append_extractLsb'_eq_extractLsb' rfl
  have h321 : w.extractLsb' 16 16 ++ Machine.byteLane w 1 = w.extractLsb' 8 24 :=
    BitVec.extractLsb'_append_extractLsb'_eq_extractLsb' rfl
  have h3210 : w.extractLsb' 8 24 ++ Machine.byteLane w 0 = w.extractLsb' 0 32 :=
    BitVec.extractLsb'_append_extractLsb'_eq_extractLsb' rfl
  rw [h32, h321, h3210]
  exact BitVec.extractLsb'_eq_self

end Sys2Proof
end

section
/-! Decoder and encoder are inverse: O7 and O8, from the offsets of the buffers up; and the words of O6, which are
encodings. -/

namespace Sys2Proof

/-! ### A four-byte transaction at an aligned offset is decoded by its offset alone -/

theorem decode_readAt {off : Offset} (ha : off.toNat % 4 = 0) : decode (readAt off) = decodeRead off :=
  decodeTransaction_aligned rfl ha

theorem decode_writeAt {off : Offset} (w : Word) (ha : off.toNat % 4 = 0) :
    decode (writeAt off w) = decodeWrite off w :=
  decodeTransaction_aligned rfl ha

/-! ### The offsets of IN and OUT (R63, R91): in the right page, aligned, and no two alike -/

theorem inOffset_aligned (k : Fin 64) : (inOffset k).toNat % 4 = 0 := by
  rw [inOffset_toNat]
  omega

theorem outOffset_aligned (k : Fin 64) : (outOffset k).toNat % 4 = 0 := by
  rw [outOffset_toNat]
  omega

/-- The offset of the entry that an aligned offset in page 1 selects is that offset. -/
theorem inOffset_entryOf {off : Offset} (ha : off.toNat % 4 = 0) (h : 0x100 ≤ off.toNat ∧ off.toNat ≤ 0x1FF) :
    inOffset (entryOf off) = off := by
  rw [← BitVec.toNat_inj, inOffset_toNat, entryOf_val]
  omega

/-- The offset of the entry that an aligned offset in page 2 selects is that offset. -/
theorem outOffset_entryOf {off : Offset} (ha : off.toNat % 4 = 0) (h : 0x200 ≤ off.toNat ∧ off.toNat ≤ 0x2FF) :
    outOffset (entryOf off) = off := by
  rw [← BitVec.toNat_inj, outOffset_toNat, entryOf_val]
  omega

/-- An offset of page 1 is none of the five registers, so the dispatch reaches the IN branch. -/
theorem decodeRead_of_in {off : Offset} (h : 0x100 ≤ off.toNat ∧ off.toNat ≤ 0x1FF) :
    decodeRead off = .ok (.rdIn (entryOf off)) := by
  simp (disch := omega) only [decodeRead_eq, if_neg, if_pos h]

theorem decodeRead_of_out {off : Offset} (h : 0x200 ≤ off.toNat ∧ off.toNat ≤ 0x2FF) :
    decodeRead off = .ok (.rdOut (entryOf off)) := by
  simp (disch := omega) only [decodeRead_eq, if_neg, if_pos h]

theorem decodeWrite_of_in {off : Offset} (w : Word) (h : 0x100 ≤ off.toNat ∧ off.toNat ≤ 0x1FF) :
    decodeWrite off w = .ok (.wrIn (entryOf off) w) := by
  simp (disch := omega) only [decodeWrite_eq, if_neg, if_pos h]

theorem decodeWrite_of_out {off : Offset} (w : Word) (h : 0x200 ≤ off.toNat ∧ off.toNat ≤ 0x2FF) :
    decodeWrite off w = .ok (.wrOut (entryOf off) w) := by
  simp (disch := omega) only [decodeWrite_eq, if_neg, if_pos h]

/-! ### Decode after encode -/

theorem decode_readAt_inOffset (k : Fin 64) : decode (readAt (inOffset k)) = .ok (.rdIn k) := by
  rw [decode_readAt (inOffset_aligned k), decodeRead_of_in (by rw [inOffset_toNat]; omega), entryOf_inOffset]

theorem decode_readAt_outOffset (k : Fin 64) : decode (readAt (outOffset k)) = .ok (.rdOut k) := by
  rw [decode_readAt (outOffset_aligned k), decodeRead_of_out (by rw [outOffset_toNat]; omega), entryOf_outOffset]

theorem decode_writeAt_inOffset (k : Fin 64) (w : Word) : decode (writeAt (inOffset k) w) = .ok (.wrIn k w) := by
  rw [decode_writeAt w (inOffset_aligned k), decodeWrite_of_in w (by rw [inOffset_toNat]; omega), entryOf_inOffset]

theorem decode_writeAt_outOffset (k : Fin 64) (w : Word) : decode (writeAt (outOffset k) w) = .ok (.wrOut k w) := by
  rw [decode_writeAt w (outOffset_aligned k), decodeWrite_of_out w (by rw [outOffset_toNat]; omega),
    entryOf_outOffset]

/-- Every instruction survives the trip over the bus. The request of a command or of a register has its bits fixed, so
the decoder computes on it; the requests of IN and OUT depend on `k`. -/
theorem decode_encode (i : Instr) : decode (encode i) = .ok i := by
  cases i with
  | rdIn k => exact decode_readAt_inOffset k
  | rdOut k => exact decode_readAt_outOffset k
  | wrIn k w => exact decode_writeAt_inOffset k w
  | wrOut k w => exact decode_writeAt_outOffset k w
  | fwd8Y | inv8Y | fwd4U | inv4U | fwd4V | inv4V => rfl
  | rdId | rdCmd | rdStatus | rdCtrl | rdLastcmd => rfl
  | wrCmd w | wrStatus w | wrCtrl w | wrId w | wrLastcmd w =>
    exact (decode_writeAt w (by decide)).trans (by simp [decodeWrite])

/-- Settles O7, constructor by constructor. -/
theorem decodeOfEncodeIsTheInstruction : Obligations.DecodeOfEncodeIsTheInstruction := decode_encode

/-! ### Encode after decode -/

/-- R84: the six words of the table, one by one. -/
theorem mem_legalCommandWords_iff (w : Word) :
    w ∈ legalCommandWords ↔
      w = 0x00000004#32 ∨ w = 0x00000005#32 ∨ w = 0x00000008#32 ∨ w = 0x00000009#32 ∨ w = 0x00000010#32 ∨
        w = 0x00000011#32 := by
  simp only [legalCommandWords, List.mem_cons, List.not_mem_nil, or_false]

/-- R84: the row of a legal word encodes to that word. -/
theorem encode_decode_of_legalWord {w : Word} (h : w ∈ legalCommandWords) :
    ∃ i, decodeCommandWord w = .ok i ∧ encode i = .command w := by
  rw [mem_legalCommandWords_iff] at h
  rcases h with rfl | rfl | rfl | rfl | rfl | rfl <;> exact ⟨_, rfl, rfl⟩

theorem encode_of_decodeCommandWord {w : Word} {i : Instr} (h : decodeCommandWord w = .ok i) :
    encode i = .command w := by
  obtain ⟨j, hj, hw⟩ := encode_decode_of_legalWord ((decodeCommandWord_ok_iff w).1 ⟨i, h⟩)
  rw [h] at hj
  injection hj with hj
  rw [hj, hw]

/-- A read that decodes is the read of the register that it was decoded to (R171). -/
theorem encode_of_decodeRead {off : Offset} {i : Instr} (ha : off.toNat % 4 = 0) (h : decodeRead off = .ok i) :
    encode i = readAt off := by
  unfold decodeRead at h
  split_ifs at h with h0 h1 h2 h3 h4 hin hout <;> injection h with h <;> subst h
  exacts [h0 ▸ rfl, h1 ▸ rfl, h2 ▸ rfl, h3 ▸ rfl, h4 ▸ rfl,
    congrArg readAt (inOffset_entryOf ha ((pageOf_eq_one_iff off).1 hin)),
    congrArg readAt (outOffset_entryOf ha ((pageOf_eq_two_iff off).1 hout))]

/-- A write that decodes is the write, with the same data, of the register that it was decoded to (R172, R180). -/
theorem encode_of_decodeWrite {off : Offset} {w : Word} {i : Instr} (ha : off.toNat % 4 = 0)
    (h : decodeWrite off w = .ok i) : encode i = writeAt off w := by
  unfold decodeWrite at h
  split_ifs at h with h0 h1 h2 h3 h4 hin hout <;> injection h with h <;> subst h
  exacts [h0 ▸ rfl, h1 ▸ rfl, h2 ▸ rfl, h3 ▸ rfl, h4 ▸ rfl,
    congrArg (writeAt · w) (inOffset_entryOf ha ((pageOf_eq_one_iff off).1 hin)),
    congrArg (writeAt · w) (outOffset_entryOf ha ((pageOf_eq_two_iff off).1 hout))]

/-- Settles O8: a transaction that decodes has four bytes and an aligned offset, so it is `readAt` or `writeAt` of its
offset, but for the data of a read. -/
theorem encodeOfDecodeIsTheRequest : Obligations.EncodeOfDecodeIsTheRequest := by
  refine ⟨fun w i h => encode_of_decodeCommandWord h, fun t i h => ?_⟩
  obtain ⟨hs, ha, -⟩ := (decodeTransaction_ok_iff t).1 ⟨i, h⟩
  obtain ⟨kind, off, size, w⟩ := t
  obtain rfl : size = 4 := hs
  replace h := (decodeTransaction_aligned rfl ha).symm.trans h
  cases kind with
  | read => exact encode_of_decodeRead ha h
  | write => exact encode_of_decodeWrite ha h

/-! ### Table words -/

/-- A table word that stands for the request of an instruction is that instruction's row. -/
theorem decodeTableWord_of_encode {nbits w : Nat} {i : Instr} (h : requestOfTableWord nbits w = encode i) :
    decodeTableWord nbits w = some i :=
  (Machine.decodeTableWord_eq_some_iff nbits w i).2 (h ▸ decode_encode i)

/-- Settles O6: six of the words are encodings; of the other two one is mismatching and one reserved. -/
theorem tableWordsDecodeToTheirRows : Obligations.TableWordsDecodeToTheirRows :=
  ⟨decodeTableWord_of_encode rfl, rfl, decodeTableWord_of_encode rfl, decodeTableWord_of_encode rfl,
    decodeTableWord_of_encode rfl, decodeTableWord_of_encode rfl, decodeTableWord_of_encode rfl, rfl⟩

end Sys2Proof
end

section
/-! The three classes of command words by numbers: the legal ones (O3), the illegal ones (R85) and the mismatching ones
(R86). -/

namespace Sys2Proof

/-- Settles O3: the decoder's legal words are those of the table, whose rows it computes. -/
theorem legalCommandWordsAreTheSix : Obligations.LegalCommandWordsAreTheSix := by
  refine ⟨fun w => ?_, rfl, rfl, rfl, rfl, rfl, rfl, rfl, rfl, rfl, rfl, rfl, rfl⟩
  rw [← mem_legalCommandWords_iff]
  exact ⟨fun ⟨_, _, _, h⟩ => legalWord_of_decodeCommand h, decodeCommand_of_legalWord⟩

theorem rsvdBits_eq_zero_iff (w : Word) : rsvdBits w = 0#27 ↔ w.toNat / 32 = 0 := by
  rw [← BitVec.toNat_inj, rsvdBits_toNat]
  rfl

theorem opBits_eq_iff (w : Word) (b : BitVec 2) : opBits w = b ↔ w.toNat % 4 = b.toNat := by
  rw [← BitVec.toNat_inj, opBits_toNat]

theorem planeBits_eq_iff (w : Word) (b : BitVec 2) : planeBits w = b ↔ w.toNat / 8 % 4 = b.toNat := by
  rw [← BitVec.toNat_inj, planeBits_toNat]

/-- R85: the words that the decoder's first three checks reject. -/
theorem decodeCommand_eq_illegal_iff (w : Word) :
    decodeCommand w = .illegal ↔ w.toNat / 32 ≠ 0 ∨ w.toNat % 4 = 2 ∨ w.toNat % 4 = 3 ∨ w.toNat / 8 % 4 = 3 := by
  simp only [decodeCommand, ne_eq, rsvdBits_eq_zero_iff, opBits_eq_iff, planeBits_eq_iff, BitVec.toNat_ofNat]
  split_ifs <;> simp only [true_iff, false_iff] <;> omega

/-- R86: the size fits the plane unless it is 4×4 with Y, or 8×8 with U or V. -/
theorem sizeFitsPlane_eq_false_iff (w : Word) (hplane : w.toNat / 8 % 4 ≠ 3) :
    sizeFitsPlane (sizeField w) (planeField w) = false ↔
      (w.toNat / 4 % 2 = 0 ∧ w.toNat / 8 % 4 = 0) ∨
        (w.toNat / 4 % 2 = 1 ∧ (w.toNat / 8 % 4 = 1 ∨ w.toNat / 8 % 4 = 2)) := by
  simp only [sizeField, planeField, sizeBit_eq, planeBits_eq_iff, decide_eq_true_eq, BitVec.toNat_ofNat]
  split_ifs <;> simp [sizeFitsPlane] <;> omega

/-- R87: past the first three checks the decoder asks only whether the size fits the plane. -/
theorem decodeCommand_of_not_illegal {w : Word} (h : decodeCommand w ≠ .illegal) :
    decodeCommand w =
      if sizeFitsPlane (sizeField w) (planeField w) then .legal (opField w) (sizeField w) (planeField w)
      else .mismatch := by
  have hchecks := (decodeCommand_eq_illegal_iff w).not.1 h
  have hr : rsvdBits w = 0#27 := (rsvdBits_eq_zero_iff w).2 (by omega)
  have hop : ¬(opBits w = 2#2 ∨ opBits w = 3#2) := by simpa [opBits_eq_iff] using by omega
  have hplane : planeBits w ≠ 3#2 := by simpa [planeBits_eq_iff] using by omega
  rw [decodeCommand, if_neg (not_not_intro hr), if_neg hop, if_neg hplane]

/-- R86: what passes the first three checks is mismatching exactly when its size does not fit its plane. -/
theorem decodeCommand_eq_mismatch_iff (w : Word) :
    decodeCommand w = .mismatch ↔
      decodeCommand w ≠ .illegal ∧
        ((w.toNat / 4 % 2 = 0 ∧ w.toNat / 8 % 4 = 0) ∨
          (w.toNat / 4 % 2 = 1 ∧ (w.toNat / 8 % 4 = 1 ∨ w.toNat / 8 % 4 = 2))) := by
  by_cases hi : decodeCommand w = .illegal
  · simp [hi]
  have hplane : w.toNat / 8 % 4 ≠ 3 := by
    rw [decodeCommand_eq_illegal_iff] at hi
    omega
  rw [and_iff_right hi, ← sizeFitsPlane_eq_false_iff w hplane]
  rw [decodeCommand_of_not_illegal hi]
  split_ifs with hfit <;> simp [hfit]

/-- R86: the mismatching words are six. -/
theorem decodeCommand_eq_mismatch_iff_mem (w : Word) :
    decodeCommand w = .mismatch ↔
      w = 0x00000000#32 ∨ w = 0x00000001#32 ∨ w = 0x0000000C#32 ∨ w = 0x0000000D#32 ∨ w = 0x00000014#32 ∨
        w = 0x00000015#32 := by
  simp only [decodeCommand_eq_mismatch_iff, ne_eq, decodeCommand_eq_illegal_iff, ← BitVec.toNat_inj,
    BitVec.toNat_ofNat]
  omega

end Sys2Proof
end

section
/-! A command word is a write to CMD (O13), and what one does on an IDLE engine: the issue of O17 and the two rejections
of O4 and O5. -/

namespace Sys2Proof.Machine

/-- R172, R181: the bus write of a word to CMD is the CMD write of that word. -/
theorem runRequest_writeCmd (w : Word) (s : State) :
    runRequest (writeAt 0x004#12 w) s = .next (s.replyWrite (s.eng.cmdWrite w)) :=
  runRequest_ok s (decode_encode (.wrCmd w))

/-- Settles O13: both are the CMD write of the word. -/
theorem commandWordIsAWriteToCmd : Obligations.CommandWordIsAWriteToCmd := by
  intro s w
  rw [step_withRequest, step_withRequest, runRequest_command, runRequest_writeCmd]

/-- R85: on an IDLE engine an illegal word is rejected. -/
theorem Engine.cmdWrite_of_illegal {e : Engine} {w : Word} (hidle : e.engState = .idle)
    (hw : decodeCommand w = .illegal) : e.cmdWrite w = e.setError .illegalCmd := by
  simp [Engine.cmdWrite, Engine.busy, hidle, hw]

/-- R86: on an IDLE engine a mismatching word is rejected. -/
theorem Engine.cmdWrite_of_mismatch {e : Engine} {w : Word} (hidle : e.engState = .idle)
    (hw : decodeCommand w = .mismatch) : e.cmdWrite w = e.setError .transformSizeMismatch := by
  simp [Engine.cmdWrite, Engine.busy, hidle, hw]

/-- The step at the bus write of a word to CMD. -/
theorem step_of_writeCmd {s : State} {w : Word} {rest : List Event}
    (h : s.inputs = .request (writeAt 0x004#12 w) :: rest) :
    step s = .next (State.replyWrite { s with inputs := rest } (s.eng.cmdWrite w)) := by
  rw [step_of_request h, runRequest_writeCmd]

/-- Settles O4: the decoder's first three checks by numbers, and the CMD write that records their failure. -/
theorem illegalWordsAreRejected : Obligations.IllegalWordsAreRejected := by
  refine ⟨decodeCommand_eq_illegal_iff, fun w s rest hw hidle hin => ?_⟩
  rw [step_of_writeCmd hin, Engine.cmdWrite_of_illegal hidle hw]
  rfl

/-- Settles O5: the mismatching words by their bits and by name, and the CMD write that records the mismatch. -/
theorem mismatchingWordsAreRejected : Obligations.MismatchingWordsAreRejected := by
  refine ⟨decodeCommand_eq_mismatch_iff_mem, decodeCommand_eq_mismatch_iff, fun w s rest hw hidle hin => ?_⟩
  rw [step_of_writeCmd hin, Engine.cmdWrite_of_mismatch hidle hw]
  rfl

/-- R92, R181: the instruction of a command word issues that word on an IDLE engine. -/
theorem exec_of_decodeCommandWord_idle {s : State} {w : Word} {i : Instr} (hidle : s.eng.engState = .idle)
    (h : decodeCommandWord w = .ok i) : exec i s = .next (s.replyWrite (s.eng.issue w)) := by
  rw [decodeCommandWord_exec s h, Engine.cmdWrite_of_legal hidle ((decodeCommandWord_ok_iff w).1 ⟨i, h⟩)]

/-- What issue latches of a code written out as a word is the code (R25). -/
theorem low5_wordOfCmd (c : CmdCode) : (wordOfCmd c).low5 = c := by
  revert c
  decide

/-- Settles O17: each code is the command word of its row, and issue latches the code. -/
theorem commandsIssueWhenIdle : Obligations.CommandsIssueWhenIdle := by
  intro i c hrow s hidle
  have hdec : decodeCommandWord (wordOfCmd c) = .ok i := by
    simp only [List.mem_cons, List.not_mem_nil, or_false, Prod.mk.injEq] at hrow
    rcases hrow with ⟨rfl, rfl⟩ | ⟨rfl, rfl⟩ | ⟨rfl, rfl⟩ | ⟨rfl, rfl⟩ | ⟨rfl, rfl⟩ | ⟨rfl, rfl⟩ <;> rfl
  rw [exec_of_decodeCommandWord_idle hidle hdec, Engine.issue, low5_wordOfCmd, State.replyWrite]

end Sys2Proof.Machine
end

section
/-! A word written to IN and read back (R90, R178, R239): O31. -/

namespace Sys2Proof.Machine

/-- R90: bit by bit, what IN keeps of a word and gives back: the low half, and copies of its top bit. -/
theorem wordOfInEntry_low16_getLsbD (w : Word) {i : Nat} (hi : i < 32) :
    (wordOfInEntry w.low16).getLsbD i = if i < 16 then w.getLsbD i else w.getLsbD 15 := by
  rw [wordOfInEntry, BitVec.getLsbD_signExtend, BitVec.msb_eq_getLsbD_last]
  by_cases h : i < 16 <;> simp [hi, h]

/-- R186: on an IDLE engine an IN write stores the low half of its word. -/
theorem Engine.inWrite_of_idle {e : Engine} (hidle : e.engState = .idle) (k : Fin 64) (w : Word) :
    e.inWrite k w = e.setIn k w.low16 := by
  rcases e.inWrite_cases k w with ⟨hbusy, -⟩ | ⟨-, h⟩
  · simp [hidle] at hbusy
  · exact h

/-- R178: on an IDLE engine, IN[k] right after a write of it reads as the word's low half, sign extended. -/
theorem Engine.wordOfInEntry_inWrite_get {e : Engine} (hidle : e.engState = .idle) (k : Fin 64) (w : Word) :
    wordOfInEntry (e.inWrite k w).inBuf[k] = wordOfInEntry w.low16 := by
  rw [Engine.inWrite_of_idle hidle, Engine.setIn_get, if_pos rfl]

/-- Settles O31: the read finds the low half that the write stored, and the bits follow from the sign extension. -/
theorem inReadsBackSignExtended : Obligations.InReadsBackSignExtended := by
  intro k w s hidle
  refine ⟨s.replyWrite (s.eng.inWrite k w), _, wordOfInEntry w.low16, rfl, rfl, ?_, fun i hi => ?_, fun i hlo hhi => ?_⟩
  · rw [State.replyRead_response, State.replyWrite_eng, Engine.wordOfInEntry_inWrite_get hidle]
  · rw [wordOfInEntry_low16_getLsbD w (by omega), if_pos hi]
  · rw [wordOfInEntry_low16_getLsbD w hhi, if_neg (by omega)]

end Sys2Proof.Machine
end

section
/-! The bounds of the forward outputs, and of OUT after any step (R114, R151): O45 and O54. A kernel's outputs are
bounded by its inputs, each output being a weighted sum of them but for the rounding; a transform is two kernels in a row. -/

namespace Sys2Proof.Machine

/-! ### The kernels -/

/-- On inputs of size at most `A`, every output of the kernel is of size at most `B`. -/
def Carries (n : Nat) (fdct : (Nat → Int) → List Int) (A B : Int) : Prop :=
  ∀ u : Nat → Int, (∀ j, j < n → |u j| ≤ A) → ∀ i, |(fdct u).getD i 0| ≤ B

/-- An entry of a list, or the 0 beyond its end, keeps the list's bound. -/
theorem abs_getD_le_of_forall_mem {l : List Int} {B : Int} (hB : 0 ≤ B) (h : ∀ y ∈ l, |y| ≤ B) (i : Nat) :
    |l.getD i 0| ≤ B := by
  rw [List.getD_eq_getElem?_getD]
  cases hi : l[i]? with
  | none => simpa using hB
  | some y => exact h y (List.mem_of_getElem? hi)

/-- R102: no output weighs its inputs by more in all than the first does, four times `COS13[32]`. -/
theorem fdct4_carries {A B : Int} (h : 4 * 5793 * A + 4096 < 8192 * (B + 1)) :
    Carries 4 (fdct4 Config.cos13 13) A B := by
  intro u hu
  simp only [Nat.forall_lt_succ_right, Nat.not_lt_zero, false_imp_iff, forall_true_iff, true_and, abs_le] at hu
  refine abs_getD_le_of_forall_mem (by omega) ?_
  simp only [fdct4, halfBtf_13, Config.cos13, List.forall_mem_cons, abs_le]
  refine ⟨?_, ?_, ?_, ?_, nofun⟩ <;> constructor <;> omega

/-- R103: no output weighs its inputs by 6 or more in all, and the roundings on the way to it add up to less than 2. -/
theorem fdct8_carries {A B : Int} (h : 6 * A + 2 ≤ B) : Carries 8 (fdct8 Config.cos13 13) A B := by
  intro u hu
  simp only [Nat.forall_lt_succ_right, Nat.not_lt_zero, false_imp_iff, forall_true_iff, true_and, abs_le] at hu
  refine abs_getD_le_of_forall_mem (by omega) ?_
  simp only [fdct8, halfBtf_13, Config.cos13, List.forall_mem_cons, abs_le]
  refine ⟨?_, ?_, ?_, ?_, ?_, ?_, ?_, ?_, nofun⟩ <;> constructor <;> omega

/-! ### The transforms -/

/-- Entry `i*n + j` of an n×n block (R13). -/
theorem mul_add_lt_mul_self {n i j : Nat} (hi : i < n) (hj : j < n) : i * n + j < n * n :=
  calc i * n + j < i * n + n := Nat.add_lt_add_left hj _
    _ = (i + 1) * n := (Nat.succ_mul i n).symm
    _ ≤ n * n := Nat.mul_le_mul_right n hi

/-- R110: the column pass carries the shifted input to `B` before its shift, and the row pass carries that on. -/
theorem Carries.abs_forward2D_le {n s0 s1 s2 : Nat} {fdct : (Nat → Int) → List Int} {A B C : Int}
    (hcolumn : Carries n fdct (A * 2 ^ s0) (B * 2 ^ s1)) (hrow : Carries n fdct B (C * 2 ^ s2)) {x : Nat → Int}
    (hx : ∀ k, k < n * n → |x k| ≤ A) (k : Nat) : |forward2D n fdct s0 s1 s2 x k| ≤ C := by
  refine abs_round2_le (hrow _ (fun j hj => abs_round2_le (hcolumn _ (fun i hi => ?_) _)) _)
  rw [abs_mul, abs_of_pos (by positivity : (0 : Int) < 2 ^ s0)]
  exact mul_le_mul_of_nonneg_right (hx _ (mul_add_lt_mul_self hi hj)) (by positivity)

theorem abs_forward8_le {A : Int} {x : Nat → Int} (hx : ∀ k, k < 64 → |x k| ≤ A) (k : Nat) :
    |forward8 x k| ≤ 72 * A + 8 :=
  Carries.abs_forward2D_le (B := 12 * A + 1) (s0 := 2) (s1 := 1) (s2 := 0) (fdct8_carries (by omega))
    (fdct8_carries (by omega)) hx k

theorem abs_forward4_le {A B C : Int} (hB : 16 * 5793 * A + 4096 < 8192 * (B + 1))
    (hC : 4 * 5793 * B + 4096 < 8192 * (C + 1)) {x : Nat → Int} (hx : ∀ k, k < 16 → |x k| ≤ A) (k : Nat) :
    |forward4 x k| ≤ C :=
  Carries.abs_forward2D_le (B := B) (s0 := 2) (s1 := 0) (s2 := 0) (fdct4_carries (by omega))
    (fdct4_carries (by omega)) hx k

/-- R114 for 16-bit inputs, at size 8. -/
theorem abs_forward8_le_of_half {x : Nat → Int} (hx : ∀ k, k < 64 → -32768 ≤ x k ∧ x k ≤ 32767) (k : Nat) :
    |forward8 x k| ≤ 2939324 :=
  (abs_forward8_le (A := 32768) (fun j hj => abs_le.2 (by have := hx j hj; omega)) k).trans (by norm_num)

/-- R114 for 16-bit inputs, at size 4: each pass is bounded by its DC output. -/
theorem abs_forward4_le_of_half {x : Nat → Int} (hx : ∀ k, k < 16 → -32768 ≤ x k ∧ x k ≤ 32767) (k : Nat) :
    |forward4 x k| ≤ 1048714 :=
  abs_forward4_le (A := 32768) (B := 370752) (by norm_num) (by norm_num)
    (fun j hj => abs_le.2 (by have := hx j hj; omega)) k

/-- Settles O45: the bounds of the two passes at each size, for 16-bit inputs and for residuals. -/
theorem forwardOutputsAreBounded : Obligations.ForwardOutputsAreBounded := by
  refine ⟨fun x hx k _ => abs_le.1 (abs_forward8_le_of_half hx k),
    fun x hx k _ => abs_le.1 (abs_forward4_le_of_half hx k), fun x hx k _ => abs_le.1 ?_, fun x hx k _ => abs_le.1 ?_⟩
  · exact (abs_forward8_le (fun j hj => abs_le.2 (hx j hj)) k).trans (by norm_num)
  · exact abs_forward4_le (B := 2885) (by norm_num) (by norm_num) (fun j hj => abs_le.2 (hx j hj)) k

/-! ### OUT -/

/-- R114, R151: what a completion computes from IN is within the largest bound, that of FWD8. -/
theorem abs_resultBlock_inInt_le_outBound (e : Engine) (op : Op) (size : Size) (k : Nat) :
    |resultBlock op size e.inInt k| ≤ 2939324 := by
  have hin : ∀ m j, j < m → -32768 ≤ e.inInt j ∧ e.inInt j ≤ 32767 := fun _ j _ => e.inInt_bounds j
  cases op <;> cases size
  case fwd.n4 => exact (abs_forward4_le_of_half (hin 16) k).trans (by norm_num)
  case fwd.n8 => exact abs_forward8_le_of_half (hin 64) k
  case inv.n4 => exact (abs_inverse2D_block_le (circuit_of_mem_idct4 · cos12_within) 4 0 _ k).trans (by norm_num)
  case inv.n8 => exact (abs_inverse2D_block_le (circuit_of_mem_idct8 · cos12_within) 8 1 _ k).trans (by norm_num)

theorem Engine.outInt_of_get_eq_zero {e : Engine} {k : Fin 64} (h : e.outBuf[k] = 0#32) : e.outInt k.val = 0 := by
  rw [Engine.outInt, dif_pos k.isLt]
  exact congrArg BitVec.toInt h

theorem Engine.outBounded_reset : Engine.reset.OutBounded := fun k => by
  rw [Engine.outInt_of_get_eq_zero (reset_outBuf_get k)]
  decide

/-- OUT after a completion holds the block, and 0 beyond its end. -/
theorem Engine.outBounded_completed (e : Engine) (op : Op) (size : Size) : (e.completed op size).OutBounded := by
  intro k
  by_cases hk : k.val < sizeN size * sizeN size
  · rw [Engine.completed_outInt e op size hk]
    exact abs_le.1 (abs_resultBlock_inInt_le_outBound e op size k.val)
  · have hget : (e.completed op size).outBuf[k] = 0#32 := by
      rw [Engine.completed_outBuf, outOfBlock_get, if_neg hk]
    rw [Engine.outInt_of_get_eq_zero hget]
    decide

/-- Settles O54: only a reset and a completion write OUT, and both leave it within the bounds. -/
theorem everyStepKeepsOutBounded : Obligations.EveryStepKeepsOutBounded := by
  intro s t hout hstep
  cases stepEffect_of_step hstep with
  | reset _ ht => rw [ht]; exact Engine.outBounded_reset
  | completion op size _ _ _ ht => rw [ht]; exact s.eng.outBounded_completed op size
  | idleTurn _ _ ht | issue _ _ _ _ _ _ ht | rejection _ _ _ _ _ ht | statusWrite _ _ _ _ ht
  | ctrlWrite _ _ _ _ ht | inWrite _ _ _ _ _ _ ht | quiet _ _ ht => rw [ht]; exact hout

end Sys2Proof.Machine
end

section
/-! FWD8 and FWD4 issued and completed: O19 and O20. -/

namespace Sys2Proof.Machine

/-- R37, R181: a command issued on an IDLE engine, and then its completion step. -/
theorem exec_then_completionStep {s : State} {i : Instr} {c : CmdCode} {op : Op} {size : Size} {plane : Plane}
    (hidle : s.eng.engState = .idle) (hi : decodeCommandWord (wordOfCmd c) = .ok i)
    (hd : decodeCommand (wordOfCmd c) = .legal op size plane) :
    ∃ t, exec i s = .next t ∧
      completionStep t = .next
        { s with eng := { s.eng.completed op size with curCmd := c, lastCmd := c }, response := some .writeOk } := by
  refine ⟨_, exec_of_decodeCommandWord_idle hidle hi, ?_⟩
  have hissue : (s.eng.issue (wordOfCmd c)).complete = some ((s.eng.issue (wordOfCmd c)).completed op size) :=
    Engine.complete_of_decode (by rw [Engine.issue_curCmd, low5_wordOfCmd]; exact hd)
  rw [completionStep, State.replyWrite_eng, hissue]
  simp only [Engine.completed, Engine.issue, low5_wordOfCmd]
  rfl

/-- An entry of IN is the integer that a transform reads at its index. -/
theorem Engine.inInt_val (e : Engine) (k : Fin 64) : e.inInt k.val = (e.inBuf[k]).toInt := by
  rw [Engine.inInt, dif_pos k.isLt]
  rfl

/-- R113: what raises DOMAIN, by the entries of IN. -/
theorem Engine.domainHit_inInt_iff (e : Engine) {count : Nat} (hcount : count ≤ 64) :
    domainHit count e.inInt = true ↔
      ∃ k : Fin 64, k.val < count ∧ ((e.inBuf[k]).toInt < -255 ∨ (e.inBuf[k]).toInt > 255) := by
  simp only [domainHit_iff, ← Engine.inInt_val]
  exact ⟨fun ⟨k, hk, hout⟩ => ⟨⟨k, hk.trans_le hcount⟩, hk, hout⟩, fun ⟨k, hk, hout⟩ => ⟨k.val, hk, hout⟩⟩

/-- R34, R113: DOMAIN after a forward completion. -/
theorem Engine.completed_fwd_domain_iff (e : Engine) (size : Size) :
    (e.completed .fwd size).domain = true ↔
      e.domain = true ∨ ∃ k : Fin 64, k.val < sizeN size * sizeN size ∧
        ((e.inBuf[k]).toInt < -255 ∨ (e.inBuf[k]).toInt > 255) := by
  rw [Engine.completed_domain, Bool.or_eq_true]
  exact or_congr Iff.rfl (e.domainHit_inInt_iff (by cases size <;> decide))

/-- A forward completion leaves RANGE as it is (R111, R112). -/
theorem Engine.completed_fwd_range (e : Engine) (size : Size) : (e.completed .fwd size).range = e.range :=
  Bool.or_false _

/-- OUT after a completion, within the block (R37). -/
theorem Engine.completed_outBuf_block (e : Engine) (op : Op) (size : Size) {k : Fin 64}
    (hk : k.val < sizeN size * sizeN size) :
    (e.completed op size).outBuf[k] = BitVec.ofInt 32 (resultBlock op size e.inInt k.val) := by
  rw [Engine.completed_outBuf, outOfBlock_get, if_pos hk]

/-- The fields that a forward completion leaves unchanged are named, and OUT and DOMAIN are its own. -/
theorem Engine.completed_fwd_eq (e : Engine) (size : Size) :
    e.completed .fwd size =
      { e with
        engState := .idle, done := true, outBuf := (e.completed .fwd size).outBuf,
        domain := (e.completed .fwd size).domain } := by
  conv_lhs => rw [Engine.completed]
  simp [raisesRange]

/-- Settles O19: the issue, and the completion of FWD8. -/
theorem fwd8ComputesTheForwardTransform : Obligations.Fwd8ComputesTheForwardTransform := by
  intro s hidle
  obtain ⟨t, hissue, hcomplete⟩ := exec_then_completionStep (c := 0x04#5) (op := .fwd) (size := .n8) hidle rfl rfl
  refine ⟨t, _, hissue, hcomplete, fun k => s.eng.completed_outBuf_block .fwd .n8 k.isLt,
    (s.eng.completed_fwd_domain_iff .n8).trans ?_, ?_⟩
  · simp
  · rw [s.eng.completed_fwd_eq]

/-- Settles O20: the issue, and the completion of FWD4, which is the same on either plane. -/
theorem fwd4ComputesTheForwardTransform : Obligations.Fwd4ComputesTheForwardTransform := by
  intro i c hic s hidle
  have hcode : ∃ plane, decodeCommandWord (wordOfCmd c) = .ok i ∧
      decodeCommand (wordOfCmd c) = .legal .fwd .n4 plane := by
    rcases hic with ⟨rfl, rfl⟩ | ⟨rfl, rfl⟩
    · exact ⟨.u, rfl, rfl⟩
    · exact ⟨.v, rfl, rfl⟩
  obtain ⟨plane, hi, hd⟩ := hcode
  obtain ⟨t, hissue, hcomplete⟩ := exec_then_completionStep hidle hi hd
  refine ⟨t, _, hissue, hcomplete, fun k hk => s.eng.completed_outBuf_block .fwd .n4 hk,
    fun k hk => s.eng.completed_outBuf_tail .fwd hk, s.eng.completed_fwd_domain_iff .n4, ?_⟩
  rw [s.eng.completed_fwd_eq]

end Sys2Proof.Machine
end

section
/-! What a transform reads: only the entries of its block (R110, R140). From that O24. -/

namespace Sys2Proof.Machine

/-- The result depends on the first `n` entries alone. -/
def ReadsFirst {β : Type} (n : Nat) (f : (Nat → Int) → β) : Prop :=
  ∀ x y : Nat → Int, (∀ j, j < n → x j = y j) → f x = f y

theorem fdct4_readsFirst (c : CosTable) (bit : Nat) : ReadsFirst 4 (fdct4 c bit) := by
  intro x y h
  simp only [fdct4, h 0 (by decide), h 1 (by decide), h 2 (by decide), h 3 (by decide)]

theorem idct4_readsFirst (c : CosTable) (bit : Nat) : ReadsFirst 4 (idct4 c bit) := by
  intro x y h
  simp only [idct4, h 0 (by decide), h 1 (by decide), h 2 (by decide), h 3 (by decide)]

theorem ReadsFirst.forward2D {n : Nat} {fdct : (Nat → Int) → List Int} (hf : ReadsFirst n fdct) (s0 s1 s2 : Nat) :
    ReadsFirst (n * n) (forward2D n fdct s0 s1 s2) := by
  intro x y h
  have hcolumn : ∀ j, j < n → (fdct fun i => x (i * n + j) * 2 ^ s0) = fdct fun i => y (i * n + j) * 2 ^ s0 :=
    fun j hj => hf _ _ fun i hi => by rw [h _ (mul_add_lt_mul_self hi hj)]
  funext k
  exact congrArg (fun l : List Int => round2 (l.getD (k % n) 0) s2) (hf _ _ fun j hj => by simp only [hcolumn j hj])

theorem any_range_congr {n : Nat} {p q : Nat → Bool} (h : ∀ i, i < n → p i = q i) :
    (List.range n).any p = (List.range n).any q := by
  rw [Bool.eq_iff_iff, List.any_eq_true, List.any_eq_true]
  exact exists_congr fun i => and_congr_right fun hi => by rw [h i (List.mem_range.1 hi)]

theorem ReadsFirst.inverse2D {n : Nat} {idct : (Nat → Int) → Idct} (hf : ReadsFirst n idct) (rowShift : Nat) :
    ReadsFirst (n * n) (inverse2D n idct rowShift) := by
  intro x y h
  have hrow : ∀ i, i < n → inverseRow n idct x i = inverseRow n idct y i :=
    fun i hi => hf _ _ fun j hj => by rw [h _ (mul_add_lt_mul_self hi hj)]
  have hcolumn : ∀ j, inverseColumn n idct rowShift x j = inverseColumn n idct rowShift y j :=
    fun j => hf _ _ fun i hi => by rw [inverseMid, hrow i hi, ← inverseMid]
  have hviol : (List.range n).any (fun i => rangeHit (inverseRow n idct x i).stored) =
      (List.range n).any fun i => rangeHit (inverseRow n idct y i).stored :=
    any_range_congr fun i hi => by rw [hrow i hi]
  simp only [Machine.inverse2D, hcolumn, hviol]

theorem domainHit_readsFirst (count : Nat) : ReadsFirst count (domainHit count) := by
  intro x y h
  exact any_range_congr fun k hk => by rw [h k hk]

/-- Settles O24: both transforms and the two warnings are functions of the first sixteen entries. -/
theorem fourByFourIgnoresTheUpperInput : Obligations.FourByFourIgnoresTheUpperInput := by
  intro e e' hin hrange hdomain
  have hread : ∀ k, k < 16 → e.inInt k = e'.inInt k := fun k hk => by
    have h64 : k < 64 := hk.trans (by decide)
    rw [e.inInt_val ⟨k, h64⟩, e'.inInt_val ⟨k, h64⟩, hin ⟨k, h64⟩ hk]
  have hfwd : forward4 e.inInt = forward4 e'.inInt := (fdct4_readsFirst _ _).forward2D _ _ _ _ _ hread
  have hinv : inverse4 e.inInt = inverse4 e'.inInt := (idct4_readsFirst _ _).inverse2D _ _ _ hread
  have hhit : domainHit 16 e.inInt = domainHit 16 e'.inInt := domainHit_readsFirst 16 _ _ hread
  simp [Engine.completeFwd4, Engine.completeInv4, hfwd, hinv, hhit, hrange, hdomain]

end Sys2Proof.Machine
end

section
/-! The laws of the forward transform, and two blocks that the round trip changes (R115, R116): O43 and O49. -/

namespace Sys2Proof.Machine

/-! ### Constant inputs -/

theorem halfBtf_of_zero (w0 w1 : Int) (bit : Nat) : halfBtf w0 0 w1 0 bit = 0 := by
  simp [halfBtf, round2_of_zero]

/-- The butterfly that takes a difference of equal operands. -/
theorem halfBtf_neg_self (w a : Int) (bit : Nat) : halfBtf (-w) a w a bit = 0 := by
  rw [halfBtf, neg_mul, neg_add_cancel, round2_of_zero]

/-- R102 on a constant: the differences are 0, and the two sums are equal. -/
theorem fdct4_const (c : CosTable) (bit : Nat) (v : Int) :
    fdct4 c bit (fun _ => v) = halfBtf c.c32 (v + v) c.c32 (v + v) bit :: List.replicate 3 0 := by
  simp [fdct4, halfBtf_of_zero, halfBtf_neg_self, List.replicate]

/-- R103 on a constant: the differences are 0, and the two sums are equal. -/
theorem fdct8_const (c : CosTable) (bit : Nat) (v : Int) :
    fdct8 c bit (fun _ => v) = halfBtf c.c32 (v + v + (v + v)) c.c32 (v + v + (v + v)) bit :: List.replicate 7 0 := by
  simp [fdct8, halfBtf_of_zero, halfBtf_neg_self, List.replicate]

/-- On a constant the kernel's first output is `dc` of the constant, 0 for 0, and every other output is 0. -/
structure HasDc (fdct : (Nat → Int) → List Int) (dc : Int → Int) : Prop where
  zero : dc 0 = 0
  const : ∀ v i, (fdct fun _ => v).getD i 0 = if i = 0 then dc v else 0

theorem getD_cons_replicate_zero (d : Int) (m i : Nat) :
    (d :: List.replicate m 0).getD i 0 = if i = 0 then d else 0 := by
  cases i <;> simp

theorem fdct4_hasDc (c : CosTable) (bit : Nat) :
    HasDc (fdct4 c bit) fun v => halfBtf c.c32 (v + v) c.c32 (v + v) bit :=
  ⟨halfBtf_of_zero _ _ _, fun v i => by rw [fdct4_const, getD_cons_replicate_zero]⟩

theorem fdct8_hasDc (c : CosTable) (bit : Nat) :
    HasDc (fdct8 c bit) fun v => halfBtf c.c32 (v + v + (v + v)) c.c32 (v + v + (v + v)) bit :=
  ⟨halfBtf_of_zero _ _ _, fun v i => by rw [fdct8_const, getD_cons_replicate_zero]⟩

section Constant

variable {fdct : (Nat → Int) → List Int} {dc : Int → Int}

/-- R110 on a constant block: the column pass leaves a constant in the first row and 0 in the others, and the row pass
leaves one entry of the first row. -/
theorem HasDc.forward2D_const (h : HasDc fdct dc) (n s0 s1 s2 : Nat) (c : Int) (k : Nat) :
    forward2D n fdct s0 s1 s2 (fun _ => c) k =
      round2 (if k % n = 0 then dc (round2 (if k / n = 0 then dc (c * 2 ^ s0) else 0) s1) else 0) s2 := by
  simp only [forward2D, h.const]

/-- R116: the AC coefficients of a constant block. -/
theorem HasDc.forward2D_const_ac (h : HasDc fdct dc) (n s0 s1 s2 : Nat) (c : Int) {k : Nat} (hk : 0 < k) :
    forward2D n fdct s0 s1 s2 (fun _ => c) k = 0 := by
  rw [h.forward2D_const]
  by_cases hcolumn : k % n = 0
  · have hrow : k / n ≠ 0 := fun hrow => by
      have hsplit := Nat.div_add_mod k n
      rw [hrow, hcolumn] at hsplit
      omega
    rw [if_neg hrow, round2_of_zero, h.zero, ite_self, round2_of_zero]
  · rw [if_neg hcolumn, round2_of_zero]

/-- R116: the zero block. -/
theorem HasDc.forward2D_zero (h : HasDc fdct dc) (n s0 s1 s2 k : Nat) :
    forward2D n fdct s0 s1 s2 (fun _ => 0) k = 0 := by
  simp only [h.forward2D_const, zero_mul, h.zero, ite_self, round2_of_zero]

end Constant

/-! ### Rounding -/

/-- R116: the DC of FWD8 is not odd in the block. -/
theorem forward8_dc_not_odd : forward8 (fun _ => 1) 0 = 68 ∧ forward8 (fun _ => -1) 0 = -62 := by decide +kernel

/-- R116: the DC of FWD4 is not odd in the block. -/
theorem forward4_dc_not_odd : forward4 (fun _ => 256) 0 = 8194 ∧ forward4 (fun _ => -256) 0 = -8192 := by decide +kernel

/-- A transform that keeps 0 and is not odd in a constant block is not additive. -/
theorem not_additive_of_not_odd {f : (Nat → Int) → Nat → Int} {c : Int} {k : Nat} (hzero : f (fun _ => 0) k = 0)
    (hodd : f (fun _ => c) k + f (fun _ => -c) k ≠ 0) :
    f (fun _ => c + -c) k ≠ f (fun _ => c) k + f (fun _ => -c) k := by
  simp only [add_neg_cancel, hzero]
  exact hodd.symm

/-- Settles O43: a constant block has a DC alone, and its rounding breaks oddness and with it linearity. -/
theorem forwardTransformLaws : Obligations.ForwardTransformLaws := by
  have h8 := fdct8_hasDc Config.cos13 13
  have h4 := fdct4_hasDc Config.cos13 13
  refine ⟨fun k _ => h8.forward2D_zero 8 2 1 0 k, fun k _ => h4.forward2D_zero 4 2 0 0 k,
    fun c k hk _ => h8.forward2D_const_ac 8 2 1 0 c hk, fun c k hk _ => h4.forward2D_const_ac 4 2 0 0 c hk,
    forward8_dc_not_odd, forward4_dc_not_odd, ?_, ?_⟩
  · refine ⟨fun _ => 1, fun _ => -1, 0, by decide, not_additive_of_not_odd (h8.forward2D_zero 8 2 1 0 0) ?_⟩
    rw [forward8_dc_not_odd.1, forward8_dc_not_odd.2]
    decide
  · refine ⟨fun _ => 256, fun _ => -256, 0, by decide, not_additive_of_not_odd (h4.forward2D_zero 4 2 0 0 0) ?_⟩
    rw [forward4_dc_not_odd.1, forward4_dc_not_odd.2]
    decide

/-! ### The round trip -/

/-- The impulse of 90_conflicts.md C1: entry 1 is 20, and every other entry 0. -/
def impulseBlock (k : Nat) : Int := if k = 1 then 20 else 0

/-- The 4×4 block of 90_conflicts.md C1. -/
def alternatingBlock (k : Nat) : Int :=
  [1, 255, -255, 0, -1, 0, 255, -255, 1, -255, -255, 1, 1, -1, 1, 255].getD k 0

/-- INV8 of FWD8 gives 21 for the impulse of 20. -/
theorem roundTrip8_impulseBlock : (inverse8 (forward8 impulseBlock)).block 1 = 21 := by decide +kernel

/-- INV4 of FWD4 gives -254 at the entry that is -255. -/
theorem roundTrip4_alternatingBlock : (inverse4 (forward4 alternatingBlock)).block 2 = -254 := by decide +kernel

/-- Settles O49: the two blocks lie in the residual range, and each comes back with an entry off by one. -/
theorem roundTripIsNotGuaranteed : Obligations.RoundTripIsNotGuaranteed := by
  refine ⟨⟨impulseBlock, fun k => ?_, 1, by decide, ?_⟩, ⟨alternatingBlock, fun k => ?_, 2, by decide, ?_⟩⟩
  · unfold impulseBlock
    split_ifs <;> omega
  · rw [roundTrip8_impulseBlock]
    decide
  · exact abs_le.1 (abs_getD_le_of_forall_mem (by decide) (by decide) k)
  · rw [roundTrip4_alternatingBlock]
    decide

end Sys2Proof.Machine
end

section
/-! INV8 and INV4 issued and completed (R141, R142): O21 and O22. -/

namespace Sys2Proof.Machine

/-- R33, R150: RANGE after an inverse completion. -/
theorem Engine.completed_inv_range_iff (e : Engine) (size : Size) :
    (e.completed .inv size).range = true ↔ e.range = true ∨ raisesRange .inv size e.inInt = true := by
  rw [Engine.completed_range, Bool.or_eq_true]

/-- The fields that an inverse completion leaves unchanged are named, and OUT and RANGE are its own. -/
theorem Engine.completed_inv_eq (e : Engine) (size : Size) :
    e.completed .inv size =
      { e with
        engState := .idle, done := true, outBuf := (e.completed .inv size).outBuf,
        range := (e.completed .inv size).range } := by
  conv_lhs => rw [Engine.completed]
  simp [raisesDomain]

/-- Settles O21: the issue, and the completion of INV8. -/
theorem inv8ComputesTheInverseTransform : Obligations.Inv8ComputesTheInverseTransform := by
  intro s hidle
  obtain ⟨t, hissue, hcomplete⟩ := exec_then_completionStep (c := 0x05#5) (op := .inv) (size := .n8) hidle rfl rfl
  refine ⟨t, _, hissue, hcomplete, fun k => s.eng.completed_outBuf_block .inv .n8 k.isLt,
    s.eng.completed_inv_range_iff .n8, ?_⟩
  rw [s.eng.completed_inv_eq]

/-- Settles O22: the issue, and the completion of INV4, which is the same on either plane. -/
theorem inv4ComputesTheInverseTransform : Obligations.Inv4ComputesTheInverseTransform := by
  intro i c hic s hidle
  have hcode : ∃ plane, decodeCommandWord (wordOfCmd c) = .ok i ∧
      decodeCommand (wordOfCmd c) = .legal .inv .n4 plane := by
    rcases hic with ⟨rfl, rfl⟩ | ⟨rfl, rfl⟩
    · exact ⟨.u, rfl, rfl⟩
    · exact ⟨.v, rfl, rfl⟩
  obtain ⟨plane, hi, hd⟩ := hcode
  obtain ⟨t, hissue, hcomplete⟩ := exec_then_completionStep hidle hi hd
  refine ⟨t, _, hissue, hcomplete, fun k hk => s.eng.completed_outBuf_block .inv .n4 hk,
    fun k hk => s.eng.completed_outBuf_tail .inv hk, s.eng.completed_inv_range_iff .n4, ?_⟩
  rw [s.eng.completed_inv_eq]

end Sys2Proof.Machine
end

section
/-! The inverse transforms themselves: when the range check fails (R150), the bounds of the outputs (R151), and the
transform of a DC alone (R152). O44, O46 and O48. -/

namespace Sys2Proof.Machine

/-! ### The range check -/

/-- R150: a list of stored values fails the check when one of them lies outside the 16-bit range. -/
theorem rangeHit_iff (stored : List Int) :
    rangeHit stored = true ↔ ∃ v ∈ stored, v < -32768 ∨ v > 32767 := by
  rw [rangeHit, List.any_eq_true]
  refine exists_congr fun v => and_congr_right fun _ => ?_
  rw [Bool.not_eq_true', ← Bool.not_eq_true]
  exact (representable_16_iff v).not.trans (by omega)

/-- R140, R150: an inverse transform fails the check at a stored value of one of its rows or columns. -/
theorem inverse2D_viol_iff (n : Nat) (idct : (Nat → Int) → Idct) (rowShift : Nat) (x : Nat → Int) :
    (inverse2D n idct rowShift x).viol = true ↔
      ∃ i v, i < n ∧ (v < -32768 ∨ v > 32767) ∧
        (v ∈ (inverseRow n idct x i).stored ∨ v ∈ (inverseColumn n idct rowShift x i).stored) := by
  simp only [inverse2D, Bool.or_eq_true, List.any_eq_true, List.mem_range, rangeHit_iff]
  constructor
  · rintro (⟨i, hi, v, hv, hout⟩ | ⟨i, hi, v, hv, hout⟩)
    · exact ⟨i, v, hi, hout, .inl hv⟩
    · exact ⟨i, v, hi, hout, .inr hv⟩
  · rintro ⟨i, v, hi, hout, hv | hv⟩
    · exact .inl ⟨i, hi, v, hv, hout⟩
    · exact .inr ⟨i, hi, v, hv, hout⟩

/-- Settles O48: the entries of IN are within the clamp, and the check is that of the two passes at either size. -/
theorem rangeIsSetByUnrepresentableStoredValues : Obligations.RangeIsSetByUnrepresentableStoredValues :=
  ⟨fun e k => clampTo_16_of_bounds (e.inInt_bounds k).1 (e.inInt_bounds k).2,
    inverse2D_viol_iff 8 (idct8 Config.cos12 12) 1, inverse2D_viol_iff 4 (idct4 Config.cos12 12) 0⟩

/-! ### The bounds of the outputs -/

/-- An entry of the result is one of its column pass, after the column shift (R140). -/
theorem inverse2D_block_apply (n : Nat) (idct : (Nat → Int) → Idct) (rowShift : Nat) (x : Nat → Int) (k : Nat) :
    (inverse2D n idct rowShift x).block k =
      round2 ((inverseColumn n idct rowShift x (k % n)).out.getD (k / n) 0) 4 := rfl

/-- On 16-bit inputs, the column shift brings every output of the kernel within `B`. -/
def ShiftsWithin (n : Nat) (idct : (Nat → Int) → Idct) (B : Int) : Prop :=
  ∀ u : Nat → Int, (∀ j, j < n → -32768 ≤ u j ∧ u j ≤ 32767) →
    ∀ y ∈ (idct u).out, -B ≤ round2 y 4 ∧ round2 y 4 ≤ B

/-- R132: each output weighs its inputs by 2.72 in all, which at the ends of their range just keeps the bound. -/
theorem idct4_shiftsWithin : ShiftsWithin 4 (idct4 Config.cos12 12) 5571 := by
  intro u hu
  simp only [Nat.forall_lt_succ_right, Nat.not_lt_zero, false_imp_iff, forall_true_iff, true_and] at hu
  simp only [idct4, halfBtf_12, Config.cos12, round2_succ, List.forall_mem_cons]
  refine ⟨?_, ?_, ?_, ?_, nofun⟩ <;> constructor <;> omega

/-- R133: each output weighs its inputs by less than 6 in all, and R151's bound, taken from intervals, allows more. -/
theorem idct8_shiftsWithin : ShiftsWithin 8 (idct8 Config.cos12 12) 12994 := by
  intro u hu
  simp only [Nat.forall_lt_succ_right, Nat.not_lt_zero, false_imp_iff, forall_true_iff, true_and] at hu
  simp only [idct8, halfBtf_12, Config.cos12, round2_succ, List.forall_mem_cons]
  refine ⟨?_, ?_, ?_, ?_, ?_, ?_, ?_, ?_, nofun⟩ <;> constructor <;> omega

/-- R140: the clamp between the passes gives the column pass 16-bit inputs, whatever the block. -/
theorem ShiftsWithin.inverse2D_block_bounds {n : Nat} {idct : (Nat → Int) → Idct} {B : Int}
    (h : ShiftsWithin n idct B) (hB : 0 ≤ B) (rowShift : Nat) (x : Nat → Int) (k : Nat) :
    -B ≤ (inverse2D n idct rowShift x).block k ∧ (inverse2D n idct rowShift x).block k ≤ B := by
  have hcolumn : ∀ y ∈ (inverseColumn n idct rowShift x (k % n)).out, -B ≤ round2 y 4 ∧ round2 y 4 ≤ B :=
    h _ fun _ _ => clampTo_16_bounds _
  rw [inverse2D_block_apply, List.getD_eq_getElem?_getD]
  cases hi : (inverseColumn n idct rowShift x (k % n)).out[k / n]? with
  | none => simpa [round2_of_zero] using hB
  | some y => exact hcolumn y (List.mem_of_getElem? hi)

/-- Settles O46: the bounds of the column pass at each size. -/
theorem inverseOutputsAreBounded : Obligations.InverseOutputsAreBounded :=
  ⟨fun x k _ => idct8_shiftsWithin.inverse2D_block_bounds (by norm_num) 1 x k,
    fun x k _ => idct4_shiftsWithin.inverse2D_block_bounds (by norm_num) 0 x k⟩

/-! ### A DC alone -/

/-- The block whose entry 0 is `v`, and every other entry 0 (R152). -/
def dcOnly (v : Int) (k : Nat) : Int := if k = 0 then v else 0

@[simp] theorem dcOnly_at_zero (v : Int) : dcOnly v 0 = v := rfl

theorem dcOnly_of_ne_zero (v : Int) {k : Nat} (hk : k ≠ 0) : dcOnly v k = 0 := if_neg hk

theorem eq_dcOnly {v : Int} {c : Nat → Int} (h0 : c 0 = v) (h : ∀ k, k ≠ 0 → c k = 0) : c = dcOnly v := by
  funext k
  by_cases hk : k = 0
  · rw [hk, h0, dcOnly_at_zero]
  · rw [h k hk, dcOnly_of_ne_zero v hk]

/-- The bound of the DC is that of every entry. -/
theorem abs_dcOnly_le {v B : Int} (h : |v| ≤ B) (k : Nat) : |dcOnly v k| ≤ B := by
  unfold dcOnly
  split_ifs
  · exact h
  · exact abs_zero.trans_le ((abs_nonneg v).trans h)

/-- A row of a DC-only block is DC-only itself: row 0 has the block's DC, and every other row the DC 0 (R13). -/
theorem dcOnly_row (v : Int) {n : Nat} (hn : 0 < n) (i j : Nat) : dcOnly v (i * n + j) = dcOnly (dcOnly v i) j := by
  by_cases hi : i = 0
  · simp [hi]
  · have hne : i * n + j ≠ 0 := by
      have := Nat.mul_pos (Nat.pos_of_ne_zero hi) hn
      omega
    rw [dcOnly_of_ne_zero v hne, dcOnly_of_ne_zero v hi, dcOnly, ite_self]

/-- What an inverse kernel makes of a DC of `v`: `Round2(v * COS12[32], 12)` (R152). -/
def idctDc (v : Int) : Int := round2 (v * 2896) 12

/-- The weight of the DC is less than 1, so that a 16-bit DC leaves the bounds at neither end. -/
theorem abs_idctDc_le {v : Int} (h : |v| ≤ 32768) : |idctDc v| ≤ 32767 := by
  obtain ⟨hlo, hhi⟩ := abs_le.1 h
  rw [idctDc, round2_succ, abs_le]
  omega

/-- The DC of every column, between the passes (R140, R152). -/
def midDc (rowShift : Nat) (d : Int) : Int := round2 (idctDc d) rowShift

theorem abs_midDc_le {d : Int} (rowShift : Nat) (hd : |d| ≤ 32768) : |midDc rowShift d| ≤ 32767 :=
  abs_round2_le_of_le rowShift (abs_idctDc_le hd)

theorem midDc_zero (rowShift : Nat) : midDc rowShift 0 = 0 := round2_of_zero rowShift

/-- The butterflies that take the DC, whatever their second weight. -/
theorem halfBtf_dc (w v : Int) : halfBtf 2896 v w 0 12 = idctDc v := by
  rw [halfBtf, mul_zero, add_zero, mul_comm, idctDc]

/-- On a DC alone, each of the kernel's `n` outputs is the DC's value, and each value it stores is that one or 0. -/
structure SpreadsDc (n : Nat) (idct : (Nat → Int) → Idct) : Prop where
  out : ∀ v, (idct (dcOnly v)).out = List.replicate n (idctDc v)
  stored : ∀ v, ∀ y ∈ (idct (dcOnly v)).stored, y = 0 ∨ y = idctDc v

/-- R132: the odd half and the second input are 0. -/
theorem idct4_spreadsDc : SpreadsDc 4 (idct4 Config.cos12 12) := by
  constructor <;> intro v <;>
    simp [idct4, dcOnly, Config.cos12, halfBtf_dc, halfBtf_of_zero, List.replicate]

/-- R133: the odd half and the other even inputs are 0. -/
theorem idct8_spreadsDc : SpreadsDc 8 (idct8 Config.cos12 12) := by
  constructor <;> intro v <;>
    simp [idct8, dcOnly, Config.cos12, halfBtf_dc, halfBtf_of_zero, List.replicate]

section Spread

variable {n : Nat} {idct : (Nat → Int) → Idct} {d : Int}

theorem SpreadsDc.getD_out (h : SpreadsDc n idct) (v : Int) {j : Nat} (hj : j < n) :
    (idct (dcOnly v)).out.getD j 0 = idctDc v := by
  rw [h.out, List.getD_replicate _ hj]

theorem SpreadsDc.abs_stored_le (h : SpreadsDc n idct) {v : Int} (hv : |v| ≤ 32768) {y : Int}
    (hy : y ∈ (idct (dcOnly v)).stored) : |y| ≤ 32767 := by
  rcases h.stored v y hy with rfl | rfl
  · decide
  · exact abs_idctDc_le hv

/-- R140: the row pass on a DC-only block. -/
theorem inverseRow_dcOnly (hn : 0 < n) (hd : -32768 ≤ d ∧ d ≤ 32767) (i : Nat) :
    inverseRow n idct (dcOnly d) i = idct (dcOnly (dcOnly d i)) := by
  refine congrArg idct (funext fun j => ?_)
  have hbounds : -32768 ≤ dcOnly d (i * n + j) ∧ dcOnly d (i * n + j) ≤ 32767 := by
    unfold dcOnly
    split_ifs <;> omega
  exact (clampTo_16_of_bounds hbounds.1 hbounds.2).trans (dcOnly_row d hn i j)

/-- R140: the column pass on a DC-only block has a DC-only input in every column. -/
theorem SpreadsDc.inverseColumn_dcOnly (h : SpreadsDc n idct) (hd : -32768 ≤ d ∧ d ≤ 32767) (rowShift : Nat)
    {j : Nat} (hj : j < n) : inverseColumn n idct rowShift (dcOnly d) j = idct (dcOnly (midDc rowShift d)) := by
  refine congrArg idct (funext fun i => ?_)
  have hmid := abs_le.1 (abs_midDc_le rowShift (abs_dcOnly_le (abs_le.2 (by omega) : |d| ≤ 32768) i))
  rw [inverseMid, inverseRow_dcOnly (j.zero_le.trans_lt hj) hd, h.getD_out _ hj]
  calc clampTo 16 (midDc rowShift (dcOnly d i)) = midDc rowShift (dcOnly d i) :=
        clampTo_16_of_bounds (by omega) (by omega)
    _ = dcOnly (midDc rowShift d) i := by
        rw [dcOnly, apply_ite (midDc rowShift), midDc_zero, dcOnly]

/-- R152: the result is constant. -/
theorem SpreadsDc.inverse2D_dcOnly_block (h : SpreadsDc n idct) (hd : -32768 ≤ d ∧ d ≤ 32767) (rowShift : Nat)
    {k : Nat} (hk : k < n * n) :
    (inverse2D n idct rowShift (dcOnly d)).block k = round2 (idctDc (midDc rowShift d)) 4 := by
  have hn : 0 < n := Nat.pos_of_mul_pos_left (k.zero_le.trans_lt hk)
  rw [inverse2D_block_apply, h.inverseColumn_dcOnly hd rowShift (Nat.mod_lt k hn),
    h.getD_out _ (Nat.div_lt_of_lt_mul hk)]

/-- R152: what either pass stores is the DC of a row or of a column at that point, or 0. -/
theorem SpreadsDc.inverse2D_dcOnly_viol (h : SpreadsDc n idct) (hd : -32768 ≤ d ∧ d ≤ 32767) (rowShift : Nat) :
    (inverse2D n idct rowShift (dcOnly d)).viol = false := by
  have habs : |d| ≤ 32768 := abs_le.2 (by omega)
  rw [← Bool.not_eq_true, inverse2D_viol_iff]
  rintro ⟨i, v, hi, hout, hv⟩
  rw [inverseRow_dcOnly (i.zero_le.trans_lt hi) hd, h.inverseColumn_dcOnly hd rowShift hi] at hv
  have hbound : |v| ≤ 32767 := by
    rcases hv with hv | hv
    · exact h.abs_stored_le (abs_dcOnly_le habs i) hv
    · exact h.abs_stored_le ((abs_midDc_le rowShift habs).trans (by norm_num)) hv
  have := abs_le.1 hbound
  omega

end Spread

/-- Settles O44: each kernel spreads a DC, and two of them in a row spread it over the block. -/
theorem inverseOfDcOnlyIsConstant : Obligations.InverseOfDcOnlyIsConstant := by
  intro d c hlo hhi h0 hrest
  have hd : -32768 ≤ d ∧ d ≤ 32767 := ⟨hlo, hhi⟩
  rw [eq_dcOnly h0 hrest]
  exact ⟨fun k hk => idct4_spreadsDc.inverse2D_dcOnly_block hd 0 hk,
    fun k hk => idct8_spreadsDc.inverse2D_dcOnly_block hd 1 hk,
    idct4_spreadsDc.inverse2D_dcOnly_viol hd 0, idct8_spreadsDc.inverse2D_dcOnly_viol hd 1⟩

end Sys2Proof.Machine
end

section
/-! Every instruction is a request of the host: O11 (R171, R172) and O14. -/

namespace Sys2Proof.Machine

/-- Settles O11: the step runs the transaction, and a transaction runs as the dispatch says. -/
theorem busTransactionsFollowTheDispatch : Obligations.BusTransactionsFollowTheDispatch := fun _ _ _ hin =>
  step_of_bus hin

/-- An instruction is what the host's request for it runs. -/
theorem runRequest_encode (i : Instr) (s : State) : runRequest (encode i) s = exec i s :=
  runRequest_ok s (decode_encode i)

/-- Settles O14: every request runs to a next state and leaves what is still to come. -/
theorem everyInstructionTakesANextState : Obligations.EveryInstructionTakesANextState := by
  intro i s
  obtain ⟨t, ht, hinputs, -⟩ := runRequest_spec (encode i) s
  exact ⟨t, (runRequest_encode i s).symm.trans ht, hinputs⟩

end Sys2Proof.Machine
end

section
/-! The writes to CMD and to IN (R181, R186): O16, O18 and O30. What each of them drops or rejects ends in `set_error`
(R201), whose whole effect on the machine is stated once. -/

namespace Sys2Proof.Machine

/-- R201: a write that records an error changes ERR, ERRCODE and the response alone. -/
theorem State.replyWrite_setError (s : State) (c : ErrorCode) :
    s.replyWrite (s.eng.setError c) =
      { s with
        eng := { s.eng with err := true, errcode := if s.eng.err = true then s.eng.errcode else c.code }
        response := some .writeOk } := rfl

/-- R181: on a BUSY engine a CMD write is dropped, whatever its word. -/
theorem Engine.cmdWrite_of_busy {e : Engine} (hbusy : e.engState = .busy) (w : Word) :
    e.cmdWrite w = e.setError .busyWrite :=
  if_pos (e.busy_iff.2 hbusy)

/-- R186: on a BUSY engine an IN write is dropped. -/
theorem Engine.inWrite_of_busy {e : Engine} (hbusy : e.engState = .busy) (k : Fin 64) (w : Word) :
    e.inWrite k w = e.setError .busyWrite :=
  if_pos (e.busy_iff.2 hbusy)

theorem exec_wrCmd (w : Word) (s : State) : exec (.wrCmd w) s = .next (s.replyWrite (s.eng.cmdWrite w)) := rfl

theorem exec_wrIn (k : Fin 64) (w : Word) (s : State) :
    exec (.wrIn k w) s = .next (s.replyWrite (s.eng.inWrite k w)) := rfl

/-- Settles O16, outcome by outcome. -/
theorem cmdWriteIssuesOrRejects : Obligations.CmdWriteIssuesOrRejects := by
  intro w s
  rw [exec_wrCmd]
  refine ⟨fun hbusy => ?busy, fun hidle hw => ?illegal, fun hidle hw => ?mismatch, fun hidle hw => ?legal⟩
  case busy => rw [Engine.cmdWrite_of_busy hbusy, State.replyWrite_setError, ErrorCode.code]
  case illegal => rw [Engine.cmdWrite_of_illegal hidle hw, State.replyWrite_setError, ErrorCode.code]
  case mismatch => rw [Engine.cmdWrite_of_mismatch hidle hw, State.replyWrite_setError, ErrorCode.code]
  case legal => rw [Engine.cmdWrite_of_legal hidle hw, Engine.issue, State.replyWrite]

/-- R84, R92: each command's instruction is the CMD write of a word. -/
theorem exec_command {i : Instr}
    (h : i ∈ [Instr.fwd8Y, Instr.inv8Y, Instr.fwd4U, Instr.inv4U, Instr.fwd4V, Instr.inv4V]) :
    ∃ w, ∀ s, exec i s = .next (s.replyWrite (s.eng.cmdWrite w)) := by
  simp only [List.mem_cons, List.not_mem_nil, or_false] at h
  rcases h with rfl | rfl | rfl | rfl | rfl | rfl <;> exact ⟨_, fun _ => rfl⟩

/-- Settles O18: a command is a CMD write, and the word of one that is dropped plays no part. -/
theorem commandsAreDroppedWhileBusy : Obligations.CommandsAreDroppedWhileBusy := by
  intro i hi s hbusy
  obtain ⟨w, hw⟩ := exec_command hi
  rw [hw, Engine.cmdWrite_of_busy hbusy, State.replyWrite_setError, ErrorCode.code]

/-- Settles O30: the write of one entry, and the dropped write. -/
theorem inWriteStoresOrIsDropped : Obligations.InWriteStoresOrIsDropped := by
  intro k w s
  rw [exec_wrIn]
  refine ⟨fun hidle => ?idle, fun hbusy => ?busy⟩
  case idle =>
    rw [Engine.inWrite_of_idle hidle]
    refine ⟨_, rfl, ?_, fun j hj => ?_, rfl⟩
    · rw [State.replyWrite_eng, Engine.setIn_get, if_pos rfl]
    · rw [State.replyWrite_eng, Engine.setIn_get, if_neg hj]
  case busy => rw [Engine.inWrite_of_busy hbusy, State.replyWrite_setError, ErrorCode.code]

end Sys2Proof.Machine
end

section
/-! The words that the registers read as (R173 to R179): O25 and O26. -/

namespace Sys2Proof.Machine

/-! ### CTRL, LASTCMD and IN -/

/-- R176: bit 0 is the flag, and the rest is zero. -/
theorem wordOfFlag_eq (b : Bool) : wordOfFlag b = if b = true then 0x00000001#32 else 0x00000000#32 := by
  cases b <;> rfl

/-- R177: the number that the code is. -/
theorem wordOfCmd_eq (c : CmdCode) : wordOfCmd c = BitVec.ofNat 32 c.toNat :=
  (BitVec.ofNat_toNat 32 c).symm

/-- R178: sign extension keeps the value. -/
theorem wordOfInEntry_toInt (h : Half) : (wordOfInEntry h).toInt = h.toInt :=
  BitVec.toInt_signExtend_of_le (by decide)

/-- Settles O25, register by register. -/
theorem readsAnswerTheirRegister : Obligations.ReadsAnswerTheirRegister := by
  intro s
  refine ⟨rfl, rfl, ?ctrl, ?lastcmd, fun k => ⟨_, wordOfInEntry_toInt s.eng.inBuf[k], rfl⟩, fun k => rfl⟩
  case ctrl => rw [← wordOfFlag_eq]; rfl
  case lastcmd => rw [← wordOfCmd_eq]; rfl

/-! ### STATUS -/

/-- R175: the layout of STATUS, bit by bit: ten bits by their places, and above them the zeros. -/
theorem Engine.statusWord_getLsbD (e : Engine) (i : Nat) :
    e.statusWord.getLsbD i =
      if i = 0 then e.busy
      else if i = 1 then e.done
      else if i = 2 then e.err
      else if i = 3 then false
      else if i < 8 then e.errcode.getLsbD (i - 4)
      else if i = 8 then e.range
      else if i = 9 then e.domain
      else false := by
  simp only [Engine.statusWord, BitVec.getLsbD_append, BitVec.getLsbD_ofBool, BitVec.getLsbD_zero]
  by_cases hi : i < 10
  · interval_cases i <;> simp
  · simp (disch := omega) only [if_neg]

/-- R175: bits 7:4 are ERRCODE. -/
theorem Engine.statusWord_errcode (e : Engine) : e.statusWord.extractLsb' 4 4 = e.errcode := by
  ext i hi
  rw [BitVec.getElem_extractLsb', Engine.statusWord_getLsbD]
  simp (disch := omega) only [if_neg, if_pos]
  rw [Nat.add_sub_cancel_left, BitVec.getLsbD_eq_getElem]

/-- Settles O26: each bit is where the layout has it. -/
theorem statusReadHasTheStatedLayout : Obligations.StatusReadHasTheStatedLayout := by
  intro s
  have bit := s.eng.statusWord_getLsbD
  refine ⟨s.eng.statusWord, rfl, ?busy, bit 1, bit 2, bit 3, s.eng.statusWord_errcode, bit 8, bit 9,
    fun i hi => ?reserved⟩
  case busy => rw [bit]; exact s.eng.busy_iff
  case reserved => rw [bit]; simp (disch := omega) only [if_neg]

end Sys2Proof.Machine
end

section
/-! The writes to STATUS and CTRL and to the read-only registers (R180, R183, R184): O28, O29 and O32. -/

namespace Sys2Proof.Machine

/-- R183: what write-1-to-clear leaves of a flag. -/
theorem ite_false_eq_and_not (clear flag : Bool) : (if clear = true then false else flag) = (flag && !clear) := by
  cases clear <;> simp

/-- Settles O28: each field is cleared by its bit, and no other field is written. -/
theorem statusWriteClearsTheBitsWritten : Obligations.StatusWriteClearsTheBitsWritten := fun _ _ =>
  ⟨_, rfl, ite_false_eq_and_not _ _, ite_false_eq_and_not _ _, rfl, ite_false_eq_and_not _ _,
    ite_false_eq_and_not _ _, rfl⟩

/-- R206: irq right after a CTRL write. -/
theorem Engine.ctrlWrite_irq (e : Engine) (w : Word) : (e.ctrlWrite w).irq = (w.getLsbD 0 && (e.done || e.err)) := rfl

/-- Settles O29: the write sets one field, and irq and the read of CTRL are functions of it. -/
theorem ctrlWriteSetsIrqEnable : Obligations.CtrlWriteSetsIrqEnable := by
  intro w s
  refine ⟨_, _, rfl, rfl, s.eng.ctrlWrite_irq w, rfl, ?_⟩
  rw [State.replyRead_response, State.replyWrite_eng, Engine.ctrlWrite_irqEn, wordOfFlag_eq]

/-- Settles O32: each of the three is BusError on a write, which sets the response and nothing else (R202). -/
theorem writesToReadOnlyRegistersErr : Obligations.WritesToReadOnlyRegistersErr := fun _ _ =>
  ⟨rfl, rfl, fun _ => rfl⟩

end Sys2Proof.Machine
end

section
/-! What a step can do to ERR and to irq (R205, R206), and that it can always be taken (R209): O38, O41 and O55. -/

namespace Sys2Proof.Machine

/-! ### Errors -/

/-- R201: the first error records its code. -/
theorem Engine.setError_of_not_err {e : Engine} (h : e.err = false) (c : ErrorCode) :
    e.setError c = { e with err := true, errcode := c.code } := by
  simp [Engine.setError, h]

/-- R181, R186: a BUSY engine rejects with code 3. -/
theorem Engine.Rejects.code_of_busy {e : Engine} {c : ErrorCode} (h : e.Rejects c) (hbusy : e.engState = .busy) :
    c.code = 3#4 := by
  rcases h with ⟨-, rfl⟩ | ⟨hidle, -⟩
  · rfl
  · simp [hbusy] at hidle

/-- R85, R86: an IDLE engine rejects with code 1 or 2. -/
theorem Engine.Rejects.code_of_idle {e : Engine} {c : ErrorCode} (h : e.Rejects c) (hidle : e.engState = .idle) :
    c.code = 1#4 ∨ c.code = 2#4 := by
  rcases h with ⟨hbusy, -⟩ | ⟨-, rfl | rfl⟩
  · simp [hidle] at hbusy
  · exact .inl rfl
  · exact .inr rfl

/-- ERR rises only in a rejection. -/
theorem rejection_of_err_rises {s t : State} (hstep : step s = .next t) (h0 : s.eng.err = false)
    (h1 : t.eng.err = true) :
    ∃ r c, s.NextIsRequest r ∧ (cmdWordOf r ≠ none ∨ inWordOf r ≠ none) ∧ s.eng.Rejects c ∧
      t.eng = { s.eng with err := true, errcode := c.code } := by
  cases stepEffect_of_step hstep with
  | rejection r c hr hw hc ht => exact ⟨r, c, hr, hw, hc, ht.trans (Engine.setError_of_not_err h0 c)⟩
  | reset _ ht => simp [ht, Engine.reset] at h1
  | completion _ _ _ _ _ ht | idleTurn _ _ ht | issue _ _ _ _ _ _ ht | statusWrite _ _ _ _ ht
  | ctrlWrite _ _ _ _ ht | inWrite _ _ _ _ _ _ ht | quiet _ _ ht => simp [ht, h0] at h1

/-- Settles O38: a step that sets ERR is a rejection, which writes ERR and ERRCODE alone, and its code is told by BUSY. -/
theorem errorsArePrecise : Obligations.ErrorsArePrecise := by
  intro s t hstep h0 h1
  obtain ⟨r, c, hr, hw, hc, ht⟩ := rejection_of_err_rises hstep h0 h1
  have hcode : t.eng.errcode = c.code := by rw [ht]
  exact ⟨⟨r, hr, hw⟩, hcode ▸ ht, fun hbusy => hcode ▸ hc.code_of_busy hbusy, fun hidle => hcode ▸ hc.code_of_idle hidle⟩

/-! ### irq -/

/-- R206: the formula of irq. -/
theorem Engine.irq_iff (e : Engine) : e.irq = true ↔ e.irqEn = true ∧ (e.done = true ∨ e.err = true) := by
  rw [Engine.irq, Bool.and_eq_true, Bool.or_eq_true]

/-- After an error irq is IRQ_EN. -/
theorem Engine.setError_irq (e : Engine) (c : ErrorCode) : (e.setError c).irq = e.irqEn := by
  simp [Engine.irq]

/-- After a completion irq is IRQ_EN. -/
theorem Engine.completed_irq (e : Engine) (op : Op) (size : Size) : (e.completed op size).irq = e.irqEn := by
  simp [Engine.irq]

/-- An issue clears DONE, so only ERR keeps irq up. -/
theorem Engine.issue_irq (e : Engine) (w : Word) : (e.issue w).irq = (e.irqEn && e.err) := by
  simp [Engine.irq]

/-- R183: a STATUS write takes from irq the flags whose bits it holds. -/
theorem Engine.statusWrite_irq (e : Engine) (w : Word) :
    (e.statusWrite w).irq = (e.irqEn && (e.done && !w.getLsbD 1 || e.err && !w.getLsbD 2)) := by
  rw [Engine.irq, Engine.statusWrite_irqEn, Engine.statusWrite_done, Engine.statusWrite_err, ite_false_eq_and_not,
    ite_false_eq_and_not]

theorem Engine.setIn_irq (e : Engine) (k : Fin 64) (h : Half) : (e.setIn k h).irq = e.irq := rfl

theorem Engine.reset_irq : Engine.reset.irq = false := rfl

/-- R206: the three causes of a rise of irq. -/
theorem irq_rise_cases {s t : State} (hstep : step s = .next t) (h0 : s.eng.irq = false) (h1 : t.eng.irq = true) :
    (s.CompletesNext ∧ s.eng.irqEn = true) ∨
    (s.eng.err = false ∧ t.eng.err = true ∧ s.eng.irqEn = true) ∨
    ((s.eng.done = true ∨ s.eng.err = true) ∧
      ∃ r w, s.NextIsRequest r ∧ ctrlWordOf r = some w ∧ w.getLsbD 0 = true) := by
  cases stepEffect_of_step hstep with
  | completion op size _ hc _ ht =>
    rw [ht, Engine.completed_irq] at h1
    exact .inl ⟨hc, h1⟩
  | rejection r c _ _ _ ht =>
    rw [ht, Engine.setError_irq] at h1
    have herr : s.eng.err = false := by
      rw [Engine.irq, h1, Bool.true_and, Bool.or_eq_false_iff] at h0
      exact h0.2
    exact .inr (.inl ⟨herr, by rw [ht, Engine.setError_err], h1⟩)
  | ctrlWrite r w hr hw ht =>
    rw [ht, Engine.ctrlWrite_irq, Bool.and_eq_true, Bool.or_eq_true] at h1
    exact .inr (.inr ⟨h1.2, r, w, hr, hw, h1.1⟩)
  | issue r w _ _ _ _ ht =>
    rw [ht, Engine.issue_irq, Bool.and_eq_true] at h1
    simp [Engine.irq, h1] at h0
  | statusWrite r w _ _ ht =>
    simp only [ht, Engine.statusWrite_irq, Bool.and_eq_true, Bool.or_eq_true] at h1
    obtain ⟨hen, hdone | herr⟩ := h1
    · simp [Engine.irq, hen, hdone] at h0
    · simp [Engine.irq, hen, herr] at h0
  | reset _ ht => rw [ht, Engine.reset_irq] at h1; cases h1
  | inWrite r k w _ _ _ ht => rw [ht, Engine.setIn_irq, h0] at h1; cases h1
  | idleTurn _ _ ht | quiet _ _ ht => rw [ht, h0] at h1; cases h1

/-- R206: the four causes of a fall of irq. -/
theorem irq_fall_cases {s t : State} (hstep : step s = .next t) (h1 : s.eng.irq = true) (h0 : t.eng.irq = false) :
    s.NextIsReset ∨ (s.IssuesNext ∧ s.eng.err = false) ∨
    (∃ r w, s.NextIsRequest r ∧ statusWordOf r = some w ∧ (w.getLsbD 1 = true ∨ w.getLsbD 2 = true)) ∨
    (∃ r w, s.NextIsRequest r ∧ ctrlWordOf r = some w ∧ w.getLsbD 0 = false) := by
  obtain ⟨hen, hflag⟩ := s.eng.irq_iff.mp h1
  cases stepEffect_of_step hstep with
  | reset hr _ => exact .inl hr
  | issue r w hr hw hidle hlegal ht =>
    rw [ht, Engine.issue_irq, hen, Bool.true_and] at h0
    exact .inr (.inl ⟨⟨hidle, r, hr, w, hw, hlegal⟩, h0⟩)
  | statusWrite r w hr hw ht =>
    rw [ht, Engine.statusWrite_irq, hen, Bool.true_and, Bool.or_eq_false_iff] at h0
    obtain ⟨hdone0, herr0⟩ := h0
    refine .inr (.inr (.inl ⟨r, w, hr, hw, hflag.imp (fun hdone => ?_) (fun herr => ?_)⟩))
    · simpa [hdone] using hdone0
    · simpa [herr] using herr0
  | ctrlWrite r w hr hw ht =>
    have hflags : (s.eng.done || s.eng.err) = true := by rwa [Bool.or_eq_true]
    rw [ht, Engine.ctrlWrite_irq, hflags, Bool.and_true] at h0
    exact .inr (.inr (.inr ⟨r, w, hr, hw, h0⟩))
  | completion op size _ _ _ ht => rw [ht, Engine.completed_irq, hen] at h0; cases h0
  | rejection r c _ _ _ ht => rw [ht, Engine.setError_irq, hen] at h0; cases h0
  | inWrite r k w _ _ _ ht => rw [ht, Engine.setIn_irq, h1] at h0; cases h0
  | idleTurn _ _ ht | quiet _ _ ht => rw [ht, h1] at h0; cases h0

/-- Settles O41: the formula, the rise and the fall. -/
theorem irqRisesAndFallsAsStated : Obligations.IrqRisesAndFallsAsStated :=
  ⟨Engine.irq_iff, fun _ _ hstep => ⟨irq_rise_cases hstep, irq_fall_cases hstep⟩⟩

/-! ### Runs -/

/-- R37: the engine's turn is taken when a BUSY engine's command is legal. -/
theorem engineTurn_of_busyIsLegal {s : State} (h : s.eng.BusyIsLegal) : ∃ t, engineTurn s = .next t := by
  cases hs : s.eng.engState with
  | idle => exact ⟨s, engineTurn_of_idle hs⟩
  | busy =>
    obtain ⟨f, hf⟩ := Engine.complete_of_legal (h hs)
    exact ⟨_, engineTurn_of_busy hs hf⟩

/-- Progress (R209): no event of the interleaving stops the machine. -/
theorem step_of_busyIsLegal {s : State} (h : s.eng.BusyIsLegal) : ∃ t, step s = .next t := by
  cases hin : s.inputs with
  | nil => rw [step_of_engine (.inl hin)]; exact engineTurn_of_busyIsLegal h
  | cons ev rest =>
    cases ev with
    | request r =>
      obtain ⟨t, ht, -⟩ := runRequest_spec r { s with inputs := rest }
      exact ⟨t, (step_of_request hin).trans ht⟩
    | completion => rw [step_of_engine (.inr ⟨rest, hin⟩)]; exact engineTurn_of_busyIsLegal h
    | reset => exact ⟨_, by rw [step, hin]⟩

/-- A run goes on from where its first step leads. -/
theorem run_succ_of_step (M : Host.Core) (n : Nat) {s t : M.State} (h : M.step s = .next t) :
    M.run (n + 1) s = M.run n t := by
  rw [Host.Core.run, h]

theorem reaches_succ {n : Nat} {s t u : State} (hstep : step s = .next t) (h : Reaches n t u) :
    Reaches (n + 1) s u :=
  (run_succ_of_step Sys2Proof.core n hstep).trans h

/-- Settles O55, by induction on the number of steps: the invariant gives each step (progress) and is kept by it. -/
theorem noRunStops : Obligations.NoRunStops := by
  intro s n hinv
  induction n generalizing s with
  | zero => exact ⟨s, rfl⟩
  | succ n ih =>
    have ⟨hlegal, _⟩ := hinv
    obtain ⟨t, hstep⟩ := step_of_busyIsLegal hlegal
    obtain ⟨u, hu⟩ := ih t (everyStepKeepsTheInvariant s t hinv hstep)
    exact ⟨u, reaches_succ hstep hu⟩

end Sys2Proof.Machine
end

section
/-! Reset and the operation in flight (R230, R236, R240): O2 and O56. What a host request cannot touch while the engine is
BUSY is one relation between engines, kept by every request; a run is then an induction over the inputs. -/

namespace Sys2Proof.Machine

/-! ### Reset -/

/-- R230: the step at a reset event. -/
theorem step_of_reset {s : State} {rest : List Event} (h : s.inputs = .reset :: rest) :
    step s = .next (State.resetEvent { s with inputs := rest }) := by
  rw [step, h]

/-- Settles O2: the engine is the reset one, which is IDLE, so its turn changes nothing. -/
theorem resetEventRestoresTheResetState : Obligations.ResetEventRestoresTheResetState := by
  intro s rest hin
  exact ⟨_, step_of_reset hin, rfl, rfl, Engine.reset_irq, engineTurn_of_idle rfl⟩

/-! ### The operation in flight -/

/-- `e'` is BUSY with the operation that `e` has in flight, and OUT is still the old one (R236). -/
structure Engine.SameOperation (e e' : Engine) : Prop where
  busy   : e'.engState = .busy
  curCmd : e'.curCmd = e.curCmd
  inBuf  : e'.inBuf = e.inBuf
  outBuf : e'.outBuf = e.outBuf

theorem Engine.SameOperation.refl {e : Engine} (hbusy : e.engState = .busy) : e.SameOperation e :=
  ⟨hbusy, rfl, rfl, rfl⟩

/-- R236: while BUSY a request clears flags, sets IRQ_EN or records a dropped write, and touches nothing that the
operation depends on. -/
theorem Engine.SameOperation.hostEffect {e e' : Engine} (h : e.SameOperation e') (r : Request) :
    e.SameOperation (hostEffect r e') := by
  obtain ⟨hbusy, hcmd, hin, hout⟩ := h
  rcases hostEffect_cases r e' with ⟨w, -, -, -, -, he⟩ | ⟨w, -, -, -, -, he⟩ | ⟨w, -, -, -, -, he⟩ |
    ⟨k, w, -, -, -, -, he⟩ | ⟨-, -, -, -, he⟩ <;> rw [he]
  · rw [Engine.cmdWrite_of_busy hbusy]
    exact ⟨hbusy, hcmd, hin, hout⟩
  · exact ⟨hbusy, hcmd, hin, hout⟩
  · exact ⟨hbusy, hcmd, hin, hout⟩
  · rw [Engine.inWrite_of_busy hbusy]
    exact ⟨hbusy, hcmd, hin, hout⟩
  · exact ⟨hbusy, hcmd, hin, hout⟩

/-- R37: a completed engine is IDLE. -/
theorem Engine.complete_idle {e f : Engine} (h : e.complete = some f) : f.engState = .idle := by
  rw [Engine.complete_frame h]

/-- R236: the same operation completes to the same OUT, and leaves the same IN. -/
theorem Engine.SameOperation.complete {e e' f : Engine} (h : e.SameOperation e') (hf : e.complete = some f) :
    ∃ f', e'.complete = some f' ∧ f'.engState = .idle ∧ f'.done = true ∧ f'.outBuf = f.outBuf ∧
      f'.inBuf = e.inBuf := by
  obtain ⟨f', hf', hout, -⟩ := completionDependsOnCommandAndInputAlone.1 e e' f hf h.curCmd.symm h.inBuf.symm
  have hframe := Engine.complete_frame hf'
  exact ⟨f', hf', Engine.complete_idle hf', by rw [hframe], hout.symm, by rw [hframe]; exact h.inBuf⟩

/-! ### Runs of a BUSY engine -/

/-- Runs are joined end to end. -/
theorem reaches_add {m n : Nat} {s t u : State} (h : Reaches m s t) (h' : Reaches n t u) : Reaches (m + n) s u := by
  induction m generalizing s with
  | zero =>
    obtain rfl : s = t := Host.Outcome.next.inj h
    rwa [Nat.zero_add]
  | succ m ih =>
    rw [Nat.succ_add]
    cases hstep : step s with
    | next s' => exact reaches_succ hstep (ih ((run_succ_of_step core m hstep).symm.trans h))
    | fault x => simp [Reaches, Host.Core.run, core, hstep] at h
    | refused x => simp [Reaches, Host.Core.run, core, hstep] at h

/-- For `n` steps from `s` the engine is BUSY with the operation of `e`. -/
def StaysInFlight (e : Engine) (s : State) (n : Nat) : Prop :=
  ∀ m, m ≤ n → ∃ u, Reaches m s u ∧ e.SameOperation u.eng

theorem StaysInFlight.zero {e : Engine} {s : State} (h : e.SameOperation s.eng) : StaysInFlight e s 0 := by
  intro m hm
  obtain rfl : m = 0 := Nat.le_zero.1 hm
  exact ⟨s, rfl, h⟩

theorem StaysInFlight.succ {e : Engine} {s t : State} {n : Nat} (h : e.SameOperation s.eng)
    (hstep : step s = .next t) (ht : StaysInFlight e t n) : StaysInFlight e s (n + 1) := by
  intro m hm
  cases m with
  | zero => exact ⟨s, rfl, h⟩
  | succ m =>
    obtain ⟨u, hu, hop⟩ := ht m (Nat.le_of_succ_le_succ hm)
    exact ⟨u, reaches_succ hstep hu, hop⟩

/-- R240: with no reset to come the operation stays in flight through the requests before the first completion mark, or
through all of them, and then it is the engine's turn. -/
theorem exists_engine_turn {e : Engine} {s : State} (h : e.SameOperation s.eng) (hreset : Event.reset ∉ s.inputs) :
    ∃ n u, n ≤ s.inputs.length ∧ Reaches n s u ∧ u.NextIsEngine ∧ e.SameOperation u.eng ∧ StaysInFlight e s n := by
  generalize hin : s.inputs = inputs at hreset ⊢
  induction inputs generalizing s with
  | nil => exact ⟨0, s, Nat.le_refl 0, rfl, .inl hin, h, .zero h⟩
  | cons ev rest ih =>
    cases ev with
    | reset => exact absurd List.mem_cons_self hreset
    | completion => exact ⟨0, s, Nat.zero_le _, rfl, .inr ⟨rest, hin⟩, h, .zero h⟩
    | request r =>
      obtain ⟨t, hrun, htin, hteng⟩ := runRequest_spec r { s with inputs := rest }
      have hstep : step s = .next t := (step_of_request hin).trans hrun
      have ht : e.SameOperation t.eng := hteng ▸ h.hostEffect r
      obtain ⟨n, u, hn, hreach, hturn, hop, hstay⟩ := ih ht htin (List.not_mem_of_not_mem_cons hreset)
      exact ⟨n + 1, u, Nat.succ_le_succ hn, reaches_succ hstep hreach, hturn, hop, hstay.succ h hstep⟩

/-- Settles O56: the operation stays in flight until the engine's turn, which completes it. -/
theorem busyEngineCompletesWithTheSameResult : Obligations.BusyEngineCompletesWithTheSameResult := by
  intro s f hbusy hf hreset
  obtain ⟨n, u, hn, hreach, hturn, hop, hstay⟩ := exists_engine_turn (.refl hbusy) hreset
  obtain ⟨f', hf', hidle, hdone, hout, hinBuf⟩ := hop.complete hf
  have hstep := (step_of_engine hturn).trans (engineTurn_of_busy hop.busy hf')
  refine ⟨n, _, Nat.lt_succ_of_le hn, reaches_add hreach (reaches_succ hstep rfl), hidle, hdone, hout, hinBuf,
    fun m hm => ?_⟩
  obtain ⟨v, hv, hvop⟩ := hstay m hm
  exact ⟨v, hv, hvop.busy, hvop.outBuf, hvop.inBuf, hvop.curCmd⟩

end Sys2Proof.Machine
end

section
/-! Host programs that wait (R242): O57. What the host can tell of a state is its engine and the last response it may use.
A list of events leads from one such view to another whatever else the state holds, and the views that an item of a
program leads to do not depend on its number of STATUS reads. -/

namespace Sys2Proof.Machine

/-! ### What a request answers -/

/-- What the host may use of the response to a request, by the engine that it finds (R170, R171, R202). -/
def hostAnswer (r : Request) (e : Engine) : Bool × Option Word :=
  match r with
  | .command _ => (false, none)
  | .bus t => if t.accepted then (false, if t.kind = .read then e.readReg t.off else none) else (true, none)

theorem State.busError_usable (s : State) (k : Access) :
    (s.busError k).response.map Response.usable = some (true, none) := by
  cases k <;> rfl

theorem State.busTransaction_usable (s : State) (t : Transaction) :
    (s.busTransaction t).response.map Response.usable = some (hostAnswer (.bus t) s.eng) := by
  rcases s.busTransaction_cases t with ⟨hacc, hk, v, hv, ht⟩ | ⟨hacc, hk, e, -, ht⟩ | ⟨hacc, ht⟩ <;> rw [ht]
  · simp [hostAnswer, hacc, hk, hv, Response.usable]
  · simp [hostAnswer, hacc, hk, Response.usable]
  · rw [State.busError_usable]
    simp [hostAnswer, hacc]

/-- What the host can tell of a state: the engine, and the last response as far as it may use it (R202, log 6). -/
structure HostView where
  eng    : Engine
  answer : Option (Bool × Option Word)

def State.hostView (s : State) : HostView := ⟨s.eng, s.response.map Response.usable⟩

/-- A request runs, and the view it leaves depends on the engine alone. -/
theorem runRequest_hostView (r : Request) (s : State) :
    ∃ t, runRequest r s = .next t ∧ t.inputs = s.inputs ∧
      t.hostView = ⟨hostEffect r s.eng, some (hostAnswer r s.eng)⟩ := by
  obtain ⟨t, ht, hin, heng⟩ := runRequest_spec r s
  have hanswer : t.response.map Response.usable = some (hostAnswer r s.eng) := by
    cases r with
    | command w =>
      obtain rfl := Host.Outcome.next.inj ((runRequest_command w s).symm.trans ht)
      rfl
    | bus b =>
      obtain rfl := Host.Outcome.next.inj ((runRequest_bus s b).symm.trans ht)
      exact s.busTransaction_usable b
  exact ⟨t, ht, hin, by rw [State.hostView, heng, hanswer]⟩

/-! ### Events, from view to view -/

/-- From every state of view `v` that has the events `es` to come, they run to their end, at a state of view `w`. -/
def LeadsTo (es : List Event) (v w : HostView) : Prop :=
  ∀ (s : State) (rest : List Event), s.inputs = es ++ rest → s.hostView = v →
    ∃ t, Reaches es.length s t ∧ t.inputs = rest ∧ t.hostView = w

theorem LeadsTo.nil (v : HostView) : LeadsTo [] v v := fun s _ hin hv => ⟨s, rfl, hin, hv⟩

theorem LeadsTo.append {es fs : List Event} {v w x : HostView} (h : LeadsTo es v w) (h' : LeadsTo fs w x) :
    LeadsTo (es ++ fs) v x := by
  intro s rest hin hv
  obtain ⟨t, ht, htin, htv⟩ := h s (fs ++ rest) (hin.trans (List.append_assoc es fs rest)) hv
  obtain ⟨u, hu, huin, huv⟩ := h' t rest htin htv
  exact ⟨u, List.length_append ▸ reaches_add ht hu, huin, huv⟩

/-- One event leads where its step does. -/
theorem LeadsTo.of_step {ev : Event} {v w : HostView}
    (h : ∀ (s : State) (rest : List Event), s.inputs = ev :: rest → s.hostView = v →
      ∃ t, step s = .next t ∧ t.inputs = rest ∧ t.hostView = w) : LeadsTo [ev] v w := by
  intro s rest hin hv
  obtain ⟨t, hstep, htin, htv⟩ := h s rest hin hv
  exact ⟨t, reaches_succ hstep rfl, htin, htv⟩

theorem leadsTo_request (r : Request) (v : HostView) :
    LeadsTo [.request r] v ⟨hostEffect r v.eng, some (hostAnswer r v.eng)⟩ := by
  refine .of_step fun s rest hin hv => ?_
  obtain ⟨t, hrun, htin, htv⟩ := runRequest_hostView r { s with inputs := rest }
  subst hv
  exact ⟨t, (step_of_request hin).trans hrun, htin, htv⟩

theorem leadsTo_reset (v : HostView) : LeadsTo [.reset] v ⟨Engine.reset, none⟩ :=
  .of_step fun _ _ hin _ => ⟨_, step_of_reset hin, rfl, rfl⟩

/-- R37: a completion writes the engine and leaves the last response. -/
theorem leadsTo_completion {v : HostView} {f : Engine} (hbusy : v.eng.engState = .busy)
    (hf : v.eng.complete = some f) : LeadsTo [.completion] v ⟨f, v.answer⟩ := by
  refine .of_step fun s rest hin hv => ?_
  subst hv
  exact ⟨_, (step_of_engine (.inr ⟨rest, hin⟩)).trans (engineTurn_of_busy hbusy hf), by rw [hin]; rfl, rfl⟩

/-! ### The wait loop -/

/-- R69, R175: a STATUS read leaves the engine and answers its STATUS word. -/
theorem leadsTo_statusRead (v : HostView) : LeadsTo [statusRead] v ⟨v.eng, some (false, some v.eng.statusWord)⟩ :=
  leadsTo_request (readAt 0x008#12) v

/-- Any number of STATUS reads leaves the engine. -/
theorem leadsTo_statusReads (n : Nat) (v : HostView) : ∃ a, LeadsTo (List.replicate n statusRead) v ⟨v.eng, a⟩ := by
  induction n with
  | zero => exact ⟨v.answer, .nil v⟩
  | succ n ih =>
    obtain ⟨a, ha⟩ := ih
    exact ⟨_, List.replicate_succ' ▸ ha.append (leadsTo_statusRead _)⟩

/-- R240, R242: a wait loop ends at the completed engine with its STATUS word, however many reads come before the
completion and after it. -/
theorem leadsTo_waitEvents {v : HostView} {f : Engine} (hbusy : v.eng.engState = .busy) (hf : v.eng.complete = some f)
    (before after : Nat) : LeadsTo (waitEvents before after) v ⟨f, some (false, some f.statusWord)⟩ := by
  obtain ⟨a, ha⟩ := leadsTo_statusReads before v
  obtain ⟨b, hb⟩ := leadsTo_statusReads after ⟨f, a⟩
  have hafter : LeadsTo (List.replicate (after + 1) statusRead) ⟨f, a⟩ ⟨f, some (false, some f.statusWord)⟩ :=
    List.replicate_succ' ▸ hb.append (leadsTo_statusRead ⟨f, b⟩)
  exact ha.append ((leadsTo_completion (v := ⟨v.eng, a⟩) hbusy hf).append hafter)

/-! ### Programs -/

/-- R181: an IDLE engine turns BUSY at a legal command only. -/
theorem hostEffect_idle {r : Request} {e : Engine} (hidle : e.engState = .idle) (hr : ¬ IssuesWhenIdle r) :
    (hostEffect r e).engState = .idle := by
  rcases hostEffect_cases r e with ⟨w, hw, -, -, -, he⟩ | ⟨w, -, -, -, -, he⟩ | ⟨w, -, -, -, -, he⟩ |
    ⟨k, w, -, -, -, -, he⟩ | ⟨-, -, -, -, he⟩ <;> rw [he]
  · rcases e.cmdWrite_cases w with ⟨-, hx⟩ | ⟨-, -, hx⟩ | ⟨-, -, hx⟩ | ⟨-, ⟨op, size, plane, hd⟩, -⟩
    · rw [hx]; exact hidle
    · rw [hx]; exact hidle
    · rw [hx]; exact hidle
    · exact absurd ⟨w, hw, legalWord_of_decodeCommand hd⟩ hr
  · exact hidle
  · exact hidle
  · rw [Engine.inWrite_of_idle hidle]
    exact hidle
  · exact hidle

/-- R181: on an IDLE engine a request that issues leaves a BUSY engine with a command that completes. -/
theorem hostEffect_issues {r : Request} {e : Engine} (hidle : e.engState = .idle) (hr : IssuesWhenIdle r) :
    (hostEffect r e).engState = .busy ∧ ∃ f, (hostEffect r e).complete = some f := by
  obtain ⟨w, hw, hlegal⟩ := hr
  have he : hostEffect r e = e.issue w := by
    rw [← Engine.cmdWrite_of_legal hidle hlegal]
    simp [hostEffect, hw]
  rw [he]
  exact ⟨rfl, Engine.complete_of_legal (legalCode_low5 hlegal)⟩

/-- R242: two items that differ in their waiting alone lead from an IDLE engine to one view, of an IDLE engine. -/
theorem HostItem.leadsTo_same {i j : HostItem} {v : HostView} (hwaits : i.Waits) (hij : i.SameButForWaiting j)
    (hidle : v.eng.engState = .idle) :
    ∃ w, w.eng.engState = .idle ∧ LeadsTo i.events v w ∧ LeadsTo j.events v w := by
  cases i <;> cases j <;> try exact hij.elim
  case plain.plain r r' =>
    obtain rfl : r = r' := hij
    exact ⟨_, hostEffect_idle hidle hwaits, leadsTo_request r v, leadsTo_request r v⟩
  case reset.reset => exact ⟨_, rfl, leadsTo_reset v, leadsTo_reset v⟩
  case issueAndWait.issueAndWait r b a r' b' a' =>
    obtain rfl : r = r' := hij
    obtain ⟨hbusy, f, hf⟩ := hostEffect_issues hidle hwaits
    have hwait := leadsTo_waitEvents (v := ⟨hostEffect r v.eng, some (hostAnswer r v.eng)⟩) hbusy hf
    exact ⟨_, Engine.complete_idle hf, (leadsTo_request r v).append (hwait b a),
      (leadsTo_request r v).append (hwait b' a')⟩

/-- R242, by induction along the two programs: from an IDLE engine both lead to one view. -/
theorem programEvents_leadTo_same {p q : List HostItem} (hwaits : ∀ i ∈ p, i.Waits)
    (hpq : List.Forall₂ HostItem.SameButForWaiting p q) {v : HostView} (hidle : v.eng.engState = .idle) :
    ∃ w, LeadsTo (programEvents p) v w ∧ LeadsTo (programEvents q) v w := by
  induction hpq generalizing v with
  | nil => exact ⟨v, .nil v, .nil v⟩
  | cons hij _ ih =>
    obtain ⟨hi, hrest⟩ := List.forall_mem_cons.1 hwaits
    obtain ⟨w, hw, hiw, hjw⟩ := HostItem.leadsTo_same hi hij hidle
    obtain ⟨x, hpx, hqx⟩ := ih hrest hw
    exact ⟨x, hiw.append hpx, hjw.append hqx⟩

/-- Events that lead to one view end the same for the host. -/
theorem State.sameEnd_of_leadsTo {s : State} {es fs : List Event} {w : HostView} (he : LeadsTo es s.hostView w)
    (hf : LeadsTo fs s.hostView w) : s.SameEnd es fs := by
  obtain ⟨t, ht, -, htv⟩ := he { s with inputs := es } [] (List.append_nil es).symm rfl
  obtain ⟨u, hu, -, huv⟩ := hf { s with inputs := fs } [] (List.append_nil fs).symm rfl
  obtain ⟨heng, hanswer⟩ := HostView.mk.inj (htv.trans huv.symm)
  exact ⟨t, u, ht, hu, heng, hanswer⟩

/-- Settles O57: from an IDLE engine the two programs lead to one view; from a BUSY one the two wait loops lead to one
view of the completed engine, which is IDLE. -/
theorem waitingProgramsAreDeterministic : Obligations.WaitingProgramsAreDeterministic := by
  intro s p q hwaits hpq
  refine ⟨fun hidle => ?idle, fun hbusy hlegal before after before' after' => ?busy⟩
  case idle =>
    obtain ⟨w, hp, hq⟩ := programEvents_leadTo_same hwaits hpq (v := s.hostView) hidle
    exact State.sameEnd_of_leadsTo hp hq
  case busy =>
    obtain ⟨f, hf⟩ := Engine.complete_of_legal hlegal
    have hwait := leadsTo_waitEvents (v := s.hostView) hbusy hf
    obtain ⟨w, hp, hq⟩ := programEvents_leadTo_same hwaits hpq
      (v := ⟨f, some (false, some f.statusWord)⟩) (Engine.complete_idle hf)
    exact State.sameEnd_of_leadsTo ((hwait before after).append hp) ((hwait before' after').append hq)

end Sys2Proof.Machine
end
